-- ==== Sys2Proof/Word.lean ====
section
/-! DEFINITION. The word, byte, address and vector types (00_scope.md R7, R8, R9; 20_memory.md R50).
The word functions themselves stand in Machine/Operands.lean. -/

namespace Sys2Proof

/-- A word is 32 bits, unsigned (R7). -/
abbrev Word := BitVec 32

/-- A byte is 8 bits (R7). -/
abbrev Byte := BitVec 8

/-- A byte address is 64 bits (R29, R50; 92_eei_decisions.md D3). -/
abbrev Addr := BitVec 64

/-- A transposed word vector: one word of each of the 16 lanes, `V[i]` the word of lane `i` (R9). -/
abbrev Vec := Vector Word 16

end Sys2Proof
end

