-- ==== Sys2Proof/Syntax.lean ====
section
/-! DEFINITION. What the three formats of 30_encoding.md encode: `Instr` has one constructor per row of
spec/opcode_table.json; `Code` is an encoded thing of one of the three formats (R80). -/

namespace Sys2Proof

/-- The two pipelines (00_scope.md R2). -/
inductive Pipe where
  | p256
  | p160
  deriving DecidableEq, Repr

/-- The rows of spec/opcode_table.json. An `idx` operand has the 7 bits of format Q (R84); which values are legal is
WellFormed.lean's to say. A register index has the 4 bits of offset[6:3] (R90). -/
inductive Instr where
  -- format C: the command word (R82)
  | bt256
  | bt160
  -- format Q: the micro-operations (R85)
  | idle
  | ldwBE (j : BitVec 7)
  | init256
  | exp256 (t : BitVec 7)
  | rnd256 (t : BitVec 7)
  | fin256
  | stwBE (k : BitVec 7)
  | pad160
  | ldwLE (j : BitVec 7)
  | init160
  | rnd160L1 (j : BitVec 7)
  | rnd160L2 (j : BitVec 7)
  | comb160
  | stwLE (k : BitVec 7)
  -- format A: host accesses to the register block (R90, R187)
  | wr64P256Src (i : BitVec 4) (v : BitVec 64)
  | wr64P256Dst (i : BitVec 4) (v : BitVec 64)
  | wr64P160Src (i : BitVec 4) (v : BitVec 64)
  | wr64P160Dst (i : BitVec 4) (v : BitVec 64)
  | rd64P256Src (i : BitVec 4)
  | rd64P256Dst (i : BitVec 4)
  | rd64P160Src (i : BitVec 4)
  | rd64P160Dst (i : BitVec 4)
  | wr32Cmd (w : BitVec 32)
  | rd32Cmd
  | rd32Status
  | wr32Status (w : BitVec 32)
  deriving DecidableEq, Repr

/-- Direction of a host access on the bus: the `kind` of R91's triple. -/
inductive BusKind where
  | read
  | write
  deriving DecidableEq, Repr

/-- Width of a host access on the bus. Only 32 and 64 bits name a register (R90); the other two are there so that an
access of the wrong width can be written down and refused (R86). -/
inductive BusWidth where
  | w8
  | w16
  | w32
  | w64
  deriving DecidableEq, Repr

/-- Format A: one host access to the register block, the triple (kind, offset, data) of R91 with the access's width.
`offset` counts bytes from `BASE`. A read carries no data; its `data` is not looked at. A 32-bit access carries its data
in bits 31:0. -/
structure BusReq where
  kind   : BusKind
  width  : BusWidth
  offset : BitVec 64
  data   : BitVec 64
  deriving DecidableEq, Repr

/-- An encoded thing: a command word (format C), a sequencer position (format Q) or a register access (format A) (R80). -/
inductive Code where
  | cmd (w : BitVec 32)
  | seq (q : BitVec 11)
  | bus (r : BusReq)
  deriving DecidableEq, Repr

/-- Why the decoder rejects an encoding: the classes of R86, by name. -/
inductive Reject where
  /-- Format C: a word that is neither 0x00000001 nor 0x00000002. -/
  | reservedCommand
  /-- Format Q: phase 0x7 or 0xF, an `idx` outside its row's range, or a position of the other pipeline. -/
  | reservedPosition
  /-- Format A: an offset that names no register, or the wrong width, or an unaligned offset. -/
  | badRegisterAccess
  deriving DecidableEq, Repr

end Sys2Proof
end

