-- ==== Sys2Proof/Config.lean ====
section
/-! DEFINITION. The parameters of 00_scope.md R5 and R6, and the free values of the model: opaque constants, of which
nothing can be proved or evaluated. A statement that holds, holds whatever they are. -/

namespace Sys2Proof

/-- NLANES (R5). -/
abbrev Config.nLanes : Nat := 16

/-- BLOCK_BYTES (R5). -/
abbrev Config.blockBytes : Nat := 64

/-- DIGEST256_BYTES (R5). -/
abbrev Config.digest256Bytes : Nat := 32

/-- DIGEST160_BYTES (R5). -/
abbrev Config.digest160Bytes : Nat := 20

/-- PAD_OFFSET160 (R5). -/
abbrev Config.padOffset160 : Nat := 32

/-- The size in bytes of the register block (R55, R90). -/
abbrev Config.regBlockBytes : Nat := 0x210

/-- BASE of the platform that `State.reset` stands on. DESIGN CHOICE (log entry 4), unsafe: the spec leaves BASE open. -/
abbrev Config.resetBase : BitVec 64 := 0xFFFFFFFFFFFF0000#64

/-- VALID of the platform that `State.reset` stands on, as (start, length) ranges: every address. DESIGN CHOICE (log
entry 4), unsafe: the spec leaves VALID open. -/
abbrev Config.resetValid : List (Nat × Nat) := [(0, 2 ^ 64)]

/-- Free value (log entry 1): what a host read returns of a pointer register that holds no value
(44_commands_and_sequencer.md R187, 93_implementation_defined.md U12), by the number of such reads so far. -/
opaque Config.freePointer : Nat → BitVec 64

/-- Free value (log entry 7): which of the competing writes of one micro-operation stands at an address (20_memory.md R60,
93_implementation_defined.md U11), by pipeline, by the pipeline's count of draws so far, and by address. -/
opaque Config.freeWinner : Pipe → Nat → Nat → Nat

/-- Free value (log entry 13): what a byte of an abandoned command's write footprint holds after the reset that interrupted
the command (70_reset_and_hazards.md R220, 93_implementation_defined.md U12), by pipeline, by the pipeline's count of draws
so far, and by address. -/
opaque Config.freeAbandoned : Pipe → Nat → Nat → BitVec 8

/-- Free value (log entry 9): which agent steps next where no rule orders them (20_memory.md R59), by the number of such
choices so far. -/
opaque Config.freeTurn : Nat → Nat

end Sys2Proof
end

