-- ==== Sys2Proof/Machine/State.lean ====
section
/-! DEFINITION. The state of CORE, its host and its platform (10_state.md R20 to R32), as plain data; the reasons a step
can stop; the state after reset. -/

namespace Sys2Proof.Machine

open Sys2Proof

/-- A pointer register (R21): its 64 bits, and whether it was written since reset (R32, R221: a register never written
holds no value). -/
structure PtrReg where
  value   : BitVec 64
  written : Bool
  deriving DecidableEq, Repr

/-- A bank of 16 pointer registers, indexed by lane (R21). -/
abbrev Bank := Vector PtrReg 16

/-- The four banks of pointer registers (R21). -/
inductive BankId where
  | src256
  | dst256
  | src160
  | dst160
  deriving DecidableEq, Repr

/-- Pipeline P256: its pointer registers (R21), sequencer (R24) and working vectors (R25). `draws` is the model's own:
it counts lane stores and resets and is the argument of `Config.freeWinner` and `Config.freeAbandoned`. -/
structure State256 where
  src   : Bank
  dst   : Bank
  seq   : BitVec 11
  w     : Vector Vec 64
  s     : Vector Vec 8
  draws : Nat
  deriving DecidableEq, Repr

/-- Pipeline P160: its pointer registers (R21), sequencer (R24) and working vectors (R26). `draws` is the model's own,
as in `State256`. -/
structure State160 where
  src   : Bank
  dst   : Bank
  seq   : BitVec 11
  x     : Vector Vec 16
  l1    : Vector Vec 5
  l2    : Vector Vec 5
  h     : Vector Vec 5
  draws : Nat
  deriving DecidableEq, Repr

/-- One pending action of the host (30_encoding.md R90, R91, R92). -/
inductive HostAction where
  /-- `wr32 CMD, w` as the abstract host action "write CMD (word)" of R90: the command word `w`, format C. -/
  | cmd (w : BitVec 32)
  /-- A register access on the bus, format A (`wr64`, `rd64`, `wr32`, `rd32` of R91). -/
  | bus (r : BusReq)
  /-- `st addr, bytes` (R91): the host stores bytes to memory. -/
  | store (addr : Nat) (bytes : List Byte)
  /-- `ld addr, n` (R91): the host loads `n` bytes from memory. -/
  | load (addr n : Nat)
  /-- `wait256` (R92): repeat `rd32 STATUS` until bit 0 reads 0. -/
  | wait256
  /-- `wait160` (R92): repeat `rd32 STATUS` until bit 1 reads 0. -/
  | wait160
  /-- The platform's reset of CORE (70_reset_and_hazards.md R220). -/
  | reset
  deriving DecidableEq, Repr

/-- The host: what it has still to do, what its last reads returned, and its two quiescence windows (20_memory.md R57 item
3): `await256` is true from the acceptance of BT256 until the first STATUS read that returns BUSY256 as 0. `draws`
counts reads of pointer registers that hold no value. -/
structure HostSide where
  program  : List HostAction
  rdata    : BitVec 64
  ldata    : List Byte
  await256 : Bool
  await160 : Bool
  draws    : Nat
  deriving DecidableEq, Repr

/-- The platform's parameters (00_scope.md R6): BASE, and VALID as a list of (start, length) ranges. No step changes
them. -/
structure Platform where
  base  : BitVec 64
  valid : List (Nat × Nat)
  deriving DecidableEq, Repr

/-- The three agents that take steps (R20). -/
inductive Agent where
  | host
  | p256
  | p160
  deriving DecidableEq, Repr

/-- The whole state (R20). `CMD` holds no state (R22) and `STATUS` is a view of the sequencers (R23), so neither is a
field. `mem` lists the bytes of `Mem` that differ from `Memory.unlisted`, addresses strictly rising. `turns` says which
agents step next; when it is empty the choice is free, and `draws` counts those choices. -/
structure State where
  p256     : State256
  p160     : State160
  mem      : List Host.Cell
  host     : HostSide
  platform : Platform
  turns    : List Agent
  draws    : Nat
  deriving DecidableEq, Repr

/-- Why a step stops with a fault. CORE raises no exception (60_exceptions.md R200); this is R207's one entry that a model
treats as a fault. -/
inductive Fault where
  /-- `UNDEFINED(unwritten_pointer)`: raised by `BT256`, `BT160` and `WR32 CMD` when one of the pipeline's 32 pointer
  registers was not written since reset: "a command that reads one is `unwritten_pointer`, a fault" (U12 of
  93_implementation_defined.md; R207, R221). Safe: the spec leaves the command undefined. -/
  | unwrittenPointer (p : Pipe)
  deriving DecidableEq, Repr

/-- Why a step is refused: the other entries of R207, and three of the model's own. -/
inductive Refusal where
  /-- No meaning yet. Raised by no arm of `exec`. Safe. -/
  | notModelled (mnemonic : String)
  /-- `UNDEFINED(command_while_busy)`: raised by `BT256`, `BT160`, `WR32 CMD` for a busy pipeline (R180). Safe. -/
  | commandWhileBusy
  /-- `UNDEFINED(src_misaligned)`: raised at acceptance when a block pointer is no multiple of 4 (R52). Safe. -/
  | srcMisaligned
  /-- `UNDEFINED(bad_pointer)`: raised at acceptance when a range of the footprint is not valid (R53), and by a
  micro-operation whose own accesses are not valid, which no accepted command reaches. Safe. -/
  | badPointer
  /-- `UNDEFINED(host_race)`: raised by a host store, load or pointer write inside the quiescence window (R57). Safe. -/
  | hostRace
  /-- `UNDEFINED(pipeline_race)`: raised at acceptance when the other pipeline is busy and the footprints conflict (R62).
  Safe. -/
  | pipelineRace
  /-- `UNDEFINED(reg_write_while_busy)`: raised by `WR64` to a register of a busy pipeline (R21, R223). Safe. -/
  | regWriteWhileBusy
  /-- `UNDEFINED(reserved_command)`: raised by a command word other than 1 and 2 (R86, R180). Safe. -/
  | reservedCommand
  /-- `UNDEFINED(bad_register_access)`: raised by a bus access that names no register (R86). Safe. -/
  | badRegisterAccess
  /-- A sequencer position without meaning (R86, "a model may leave it without meaning"): raised by a pipeline's turn,
  and by a micro-operation whose `idx` is outside its row's range. Safe: no accepted command reaches one. -/
  | reservedPosition
  /-- A host `st` or `ld` outside ordinary memory (R50). Raised by the host's turn. Safe. -/
  | notMemory
  deriving DecidableEq, Repr

/-- The outcome of a step or of an instruction. -/
abbrev Result := Host.Outcome State Fault Refusal

/-- A vector with 0 in every lane. -/
abbrev zeroVec : Vec := Vector.replicate 16 0#32

/-- A pointer register after reset: it holds no value (R32). DESIGN CHOICE (log entry 1): its bits are 0. -/
abbrev PtrReg.reset : PtrReg := { value := 0#64, written := false }

/-- A bank after reset (R32). -/
abbrev Bank.reset : Bank := Vector.replicate 16 PtrReg.reset

/-- Pipeline P256 after reset (R32): sequencer IDLE. DESIGN CHOICE (log entry 2): working vectors 0. -/
def State256.reset : State256 :=
  { src := Bank.reset, dst := Bank.reset, seq := 0#11
    w := Vector.replicate 64 zeroVec, s := Vector.replicate 8 zeroVec, draws := 0 }

/-- Pipeline P160 after reset (R32): sequencer IDLE. DESIGN CHOICE (log entry 2): working vectors 0. -/
def State160.reset : State160 :=
  { src := Bank.reset, dst := Bank.reset, seq := 0#11
    x := Vector.replicate 16 zeroVec, l1 := Vector.replicate 5 zeroVec, l2 := Vector.replicate 5 zeroVec
    h := Vector.replicate 5 zeroVec, draws := 0 }

/-- The host before it has done anything: no action pending, nothing read, no command given (log entry 10). -/
def HostSide.reset : HostSide :=
  { program := [], rdata := 0#64, ldata := [], await256 := false, await160 := false, draws := 0 }

/-- The machine right after reset (R32, R220): both sequencers IDLE, so both busy bits 0; pointer registers hold no value;
nothing listed in memory. -/
def State.reset : State :=
  { p256 := State256.reset, p160 := State160.reset, mem := [], host := HostSide.reset
    platform := { base := Config.resetBase, valid := Config.resetValid }, turns := [], draws := 0 }

end Sys2Proof.Machine
end

