-- ==== Sys2Proof/Machine/Flags.lean ====
section
/-! DEFINITION. The only flag-like state of CORE: the two busy bits (10_state.md R23, R30), and the STATUS word they make. -/

namespace Sys2Proof.Machine

open Sys2Proof

/-- `BUSYn`: 1 exactly when `SEQn` is not `IDLE` (R23). -/
def State.busy (s : State) (p : Pipe) : Bool :=
  match p with
  | .p256 => decide (s.p256.seq ≠ 0#11)
  | .p160 => decide (s.p160.seq ≠ 0#11)

/-- The value a read of STATUS returns: `{0[29:0], BUSY160, BUSY256}` (R23, R187). -/
def State.statusWord (s : State) : BitVec 32 :=
  0#30 ++ BitVec.ofBool (s.busy .p160) ++ BitVec.ofBool (s.busy .p256)

end Sys2Proof.Machine
end

