-- ==== Sys2Proof/WellFormed.lean ====
section
/-! DEFINITION. Which instructions have an encoding: the legal `idx` range of each row of 30_encoding.md R85. -/

namespace Sys2Proof

/-- The legal `idx` values of R85's table. Every other operand may take every value of its width. -/
def Instr.wellFormed : Instr → Bool
  | .bt256 => true
  | .bt160 => true
  | .idle => true
  | .ldwBE j => decide (j.toNat ≤ 15)
  | .init256 => true
  | .exp256 t => decide (16 ≤ t.toNat ∧ t.toNat ≤ 63)
  | .rnd256 t => decide (t.toNat ≤ 63)
  | .fin256 => true
  | .stwBE k => decide (k.toNat ≤ 7)
  | .pad160 => true
  | .ldwLE j => decide (j.toNat ≤ 15)
  | .init160 => true
  | .rnd160L1 j => decide (j.toNat ≤ 79)
  | .rnd160L2 j => decide (j.toNat ≤ 79)
  | .comb160 => true
  | .stwLE k => decide (k.toNat ≤ 4)
  | .wr64P256Src _ _ => true
  | .wr64P256Dst _ _ => true
  | .wr64P160Src _ _ => true
  | .wr64P160Dst _ _ => true
  | .rd64P256Src _ => true
  | .rd64P256Dst _ => true
  | .rd64P160Src _ => true
  | .rd64P160Dst _ => true
  | .wr32Cmd _ => true
  | .rd32Cmd => true
  | .rd32Status => true
  | .wr32Status _ => true

/-- An instruction that has an encoding. -/
abbrev Instr.WF (i : Instr) : Prop := i.wellFormed = true

end Sys2Proof
end

