-- ==== Sys2Proof/Decode.lean ====
section
/-! DEFINITION. The decoder of the three formats of 30_encoding.md (R81, R82, R84, R85, R86, R90), total, rejecting by
name; after it the encoder, written from the same tables. -/

namespace Sys2Proof

/-- Format C, the whole-word column of R82; every other word is reserved (R86). -/
def decodeC (w : BitVec 32) : Except Reject Instr :=
  if w = 0x00000001#32 then .ok .bt256
  else if w = 0x00000002#32 then .ok .bt160
  else .error .reservedCommand

/-- The row of R85 that a phase names, with `idx` for its operand; `none` for phases 0x7 and 0xF, and for a non-zero
`idx` in a row whose mask is 0x7FF. -/
def decodePhase (phase : BitVec 4) (idx : BitVec 7) : Option Instr :=
  match phase.toNat with
  | 0x0 => if idx = 0#7 then some .idle else none
  | 0x1 => some (.ldwBE idx)
  | 0x2 => if idx = 0#7 then some .init256 else none
  | 0x3 => some (.exp256 idx)
  | 0x4 => some (.rnd256 idx)
  | 0x5 => if idx = 0#7 then some .fin256 else none
  | 0x6 => some (.stwBE idx)
  | 0x8 => if idx = 0#7 then some .pad160 else none
  | 0x9 => some (.ldwLE idx)
  | 0xA => if idx = 0#7 then some .init160 else none
  | 0xB => some (.rnd160L1 idx)
  | 0xC => some (.rnd160L2 idx)
  | 0xD => if idx = 0#7 then some .comb160 else none
  | 0xE => some (.stwLE idx)
  | _ => none

/-- Format Q: `{phase[3:0], idx[6:0]}`; an `idx` outside the row's legal range is reserved (R84, R85, R86). -/
def decodeQ (q : BitVec 11) : Except Reject Instr :=
  match decodePhase (q.extractLsb' 7 4) (q.extractLsb' 0 7) with
  | some i => if i.wellFormed then .ok i else .error .reservedPosition
  | none => .error .reservedPosition

/-- Whether a position of this phase may stand in the pipeline's sequencer: phases 0x0 to 0x7 belong to `SEQ256`, phases
0x0 and 0x8 to 0xF to `SEQ160` (R84). -/
def phaseBelongs (p : Pipe) (phase : BitVec 4) : Bool :=
  match p with
  | .p256 => decide (phase.toNat < 8)
  | .p160 => decide (phase.toNat = 0 ∨ 8 ≤ phase.toNat)

/-- What a sequencer's position names; a position of the other pipeline is reserved (R86). -/
def decodeSeq (p : Pipe) (q : BitVec 11) : Except Reject Instr :=
  if phaseBelongs p (q.extractLsb' 7 4) then decodeQ q else .error .reservedPosition

/-- The pointer-register row that offset[8:7] names, for a write of `v` (R90). -/
def pointerWrite (bank : BitVec 2) (i : BitVec 4) (v : BitVec 64) : Instr :=
  match bank.toNat with
  | 0 => .wr64P256Src i v
  | 1 => .wr64P256Dst i v
  | 2 => .wr64P160Src i v
  | _ => .wr64P160Dst i v

/-- The pointer-register row that offset[8:7] names, for a read (R90). -/
def pointerRead (bank : BitVec 2) (i : BitVec 4) : Instr :=
  match bank.toNat with
  | 0 => .rd64P256Src i
  | 1 => .rd64P256Dst i
  | 2 => .rd64P160Src i
  | _ => .rd64P160Dst i

/-- Format A: R90's map of the register block. A pointer register takes a naturally aligned 64-bit access, `CMD` and
`STATUS` a naturally aligned 32-bit access; anything else is a bad register access (R86). -/
def decodeA (r : BusReq) : Except Reject Instr :=
  match r.width with
  | .w64 =>
    if r.offset.toNat < 0x200 ∧ r.offset.toNat % 8 = 0 then
      match r.kind with
      | .write => .ok (pointerWrite (r.offset.extractLsb' 7 2) (r.offset.extractLsb' 3 4) r.data)
      | .read => .ok (pointerRead (r.offset.extractLsb' 7 2) (r.offset.extractLsb' 3 4))
    else .error .badRegisterAccess
  | .w32 =>
    if r.offset = 0x200#64 then
      match r.kind with
      | .write => .ok (.wr32Cmd (r.data.extractLsb' 0 32))
      | .read => .ok .rd32Cmd
    else if r.offset = 0x208#64 then
      match r.kind with
      | .write => .ok (.wr32Status (r.data.extractLsb' 0 32))
      | .read => .ok .rd32Status
    else .error .badRegisterAccess
  | .w8 => .error .badRegisterAccess
  | .w16 => .error .badRegisterAccess

/-- The decoder of all three formats (R80). -/
def decode : Code → Except Reject Instr
  | .cmd w => decodeC w
  | .seq q => decodeQ q
  | .bus r => decodeA r

/-- A sequencer position from its two fields: bits 10:7 are `phase`, bits 6:0 are `idx` (R84). -/
def position (phase : BitVec 4) (idx : BitVec 7) : BitVec 11 := phase ++ idx

/-- The 64-bit write of `v` to register `i` of the bank at `base` (R90). -/
def busWrite64 (base : BitVec 64) (i : BitVec 4) (v : BitVec 64) : Code :=
  .bus { kind := .write, width := .w64, offset := base + 8#64 * i.setWidth 64, data := v }

/-- The 64-bit read of register `i` of the bank at `base` (R90). -/
def busRead64 (base : BitVec 64) (i : BitVec 4) : Code :=
  .bus { kind := .read, width := .w64, offset := base + 8#64 * i.setWidth 64, data := 0#64 }

/-- The encoder, row by row from R82, R85 and R90. -/
def encode : Instr → Code
  | .bt256 => .cmd 0x00000001#32
  | .bt160 => .cmd 0x00000002#32
  | .idle => .seq (position 0x0#4 0#7)
  | .ldwBE j => .seq (position 0x1#4 j)
  | .init256 => .seq (position 0x2#4 0#7)
  | .exp256 t => .seq (position 0x3#4 t)
  | .rnd256 t => .seq (position 0x4#4 t)
  | .fin256 => .seq (position 0x5#4 0#7)
  | .stwBE k => .seq (position 0x6#4 k)
  | .pad160 => .seq (position 0x8#4 0#7)
  | .ldwLE j => .seq (position 0x9#4 j)
  | .init160 => .seq (position 0xA#4 0#7)
  | .rnd160L1 j => .seq (position 0xB#4 j)
  | .rnd160L2 j => .seq (position 0xC#4 j)
  | .comb160 => .seq (position 0xD#4 0#7)
  | .stwLE k => .seq (position 0xE#4 k)
  | .wr64P256Src i v => busWrite64 0x000#64 i v
  | .wr64P256Dst i v => busWrite64 0x080#64 i v
  | .wr64P160Src i v => busWrite64 0x100#64 i v
  | .wr64P160Dst i v => busWrite64 0x180#64 i v
  | .rd64P256Src i => busRead64 0x000#64 i
  | .rd64P256Dst i => busRead64 0x080#64 i
  | .rd64P160Src i => busRead64 0x100#64 i
  | .rd64P160Dst i => busRead64 0x180#64 i
  | .wr32Cmd w => .bus { kind := .write, width := .w32, offset := 0x200#64, data := w.setWidth 64 }
  | .rd32Cmd => .bus { kind := .read, width := .w32, offset := 0x200#64, data := 0#64 }
  | .rd32Status => .bus { kind := .read, width := .w32, offset := 0x208#64, data := 0#64 }
  | .wr32Status w => .bus { kind := .write, width := .w32, offset := 0x208#64, data := w.setWidth 64 }

/-- The sequencer position that names a micro-operation; IDLE's for an instruction that is none. -/
def seqCode (i : Instr) : BitVec 11 :=
  match encode i with
  | .seq q => q
  | .cmd _ => position 0x0#4 0#7
  | .bus _ => position 0x0#4 0#7

/-- Forget why the decoder refuses. -/
def accepted : Except Reject Instr → Option Instr
  | .ok i => some i
  | .error _ => none

/-- The instruction the decoder reads from a word numbered as spec/opcode_table.json numbers it: 32 bits are a command
word (format C), 16 bits hold a sequencer position in bits 10:0 (format Q) with bits 15:11 zero. The table's format A
rows give an offset only: without the access's kind and width, which the table gives no bits, no word decodes to them
(log entry 15). -/
def decodeTableWord (nbits w : Nat) : Option Instr :=
  if nbits = 32 then
    if w < 2 ^ 32 then accepted (decode (.cmd (BitVec.ofNat 32 w))) else none
  else if nbits = 16 then
    if w < 2 ^ 11 then accepted (decode (.seq (BitVec.ofNat 11 w))) else none
  else none

end Sys2Proof
end

