-- ==== Sys2Proof/Machine/Tables.lean ====
section
/-! DEFINITION. The numeric tables of the two algorithms (10_state.md R28): constants, not state. The spec marks every
one of them as supplied from general knowledge (93_implementation_defined.md G1, G2, G5, G7, G8; log entry 18). -/

namespace Sys2Proof.Machine

open Sys2Proof

/-- The initial constants of the 256-bit engine (R121). -/
def iv256Table : List Word :=
  [0x6A09E667#32, 0xBB67AE85#32, 0x3C6EF372#32, 0xA54FF53A#32, 0x510E527F#32, 0x9B05688C#32, 0x1F83D9AB#32, 0x5BE0CD19#32]

/-- `IV256[k]` (R121). -/
def iv256 (k : Nat) : Word := iv256Table.getD k 0#32

/-- `K256[0]` to `K256[15]` (R122). -/
def k256Part0 : List Word :=
  [0x428A2F98#32, 0x71374491#32, 0xB5C0FBCF#32, 0xE9B5DBA5#32,
   0x3956C25B#32, 0x59F111F1#32, 0x923F82A4#32, 0xAB1C5ED5#32,
   0xD807AA98#32, 0x12835B01#32, 0x243185BE#32, 0x550C7DC3#32,
   0x72BE5D74#32, 0x80DEB1FE#32, 0x9BDC06A7#32, 0xC19BF174#32]

/-- `K256[16]` to `K256[31]` (R122). -/
def k256Part1 : List Word :=
  [0xE49B69C1#32, 0xEFBE4786#32, 0x0FC19DC6#32, 0x240CA1CC#32,
   0x2DE92C6F#32, 0x4A7484AA#32, 0x5CB0A9DC#32, 0x76F988DA#32,
   0x983E5152#32, 0xA831C66D#32, 0xB00327C8#32, 0xBF597FC7#32,
   0xC6E00BF3#32, 0xD5A79147#32, 0x06CA6351#32, 0x14292967#32]

/-- `K256[32]` to `K256[47]` (R122). -/
def k256Part2 : List Word :=
  [0x27B70A85#32, 0x2E1B2138#32, 0x4D2C6DFC#32, 0x53380D13#32,
   0x650A7354#32, 0x766A0ABB#32, 0x81C2C92E#32, 0x92722C85#32,
   0xA2BFE8A1#32, 0xA81A664B#32, 0xC24B8B70#32, 0xC76C51A3#32,
   0xD192E819#32, 0xD6990624#32, 0xF40E3585#32, 0x106AA070#32]

/-- `K256[48]` to `K256[63]` (R122). -/
def k256Part3 : List Word :=
  [0x19A4C116#32, 0x1E376C08#32, 0x2748774C#32, 0x34B0BCB5#32,
   0x391C0CB3#32, 0x4ED8AA4A#32, 0x5B9CCA4F#32, 0x682E6FF3#32,
   0x748F82EE#32, 0x78A5636F#32, 0x84C87814#32, 0x8CC70208#32,
   0x90BEFFFA#32, 0xA4506CEB#32, 0xBEF9A3F7#32, 0xC67178F2#32]

/-- The 64 round constants of the 256-bit engine (R122). -/
def k256Table : List Word := k256Part0 ++ k256Part1 ++ k256Part2 ++ k256Part3

/-- `K256[t]` (R122). -/
def k256 (t : Nat) : Word := k256Table.getD t 0#32

/-- The initial constants of the 160-bit engine (R141). -/
def iv160Table : List Word := [0x67452301#32, 0xEFCDAB89#32, 0x98BADCFE#32, 0x10325476#32, 0xC3D2E1F0#32]

/-- `IV160[k]` (R141). -/
def iv160 (k : Nat) : Word := iv160Table.getD k 0#32

/-- The round constants of line 1, by sub-phase (R143). -/
def kl1Table : List Word := [0x00000000#32, 0x5A827999#32, 0x6ED9EBA1#32, 0x8F1BBCDC#32, 0xA953FD4E#32]

/-- The round constants of line 2, by sub-phase (R143). -/
def kl2Table : List Word := [0x50A28BE6#32, 0x5C4DD124#32, 0x6D703EF3#32, 0x7A6D76E9#32, 0x00000000#32]

/-- `KL1[p]` (R143). -/
def kl1 (p : Nat) : Word := kl1Table.getD p 0#32

/-- `KL2[p]` (R143). -/
def kl2 (p : Nat) : Word := kl2Table.getD p 0#32

/-- RL1 of rounds 0 to 15 (R144). -/
def rl1Phase0 : List Nat := [0, 1, 2, 3, 4, 5, 6, 7, 8, 9, 10, 11, 12, 13, 14, 15]

/-- RL1 of rounds 16 to 31 (R144). -/
def rl1Phase1 : List Nat := [7, 4, 13, 1, 10, 6, 15, 3, 12, 0, 9, 5, 2, 14, 11, 8]

/-- RL1 of rounds 32 to 47 (R144). -/
def rl1Phase2 : List Nat := [3, 10, 14, 4, 9, 15, 8, 1, 2, 7, 0, 6, 13, 11, 5, 12]

/-- RL1 of rounds 48 to 63 (R144). -/
def rl1Phase3 : List Nat := [1, 9, 11, 10, 0, 8, 12, 4, 13, 3, 7, 15, 14, 5, 6, 2]

/-- RL1 of rounds 64 to 79 (R144). -/
def rl1Phase4 : List Nat := [4, 0, 5, 9, 7, 12, 2, 10, 14, 1, 3, 8, 11, 6, 15, 13]

/-- The word-selection table of line 1 (R144). -/
def rl1Table : List Nat :=
  rl1Phase0 ++ rl1Phase1 ++ rl1Phase2 ++ rl1Phase3 ++ rl1Phase4

/-- `RL1[j]` (R144). -/
def rl1 (j : Nat) : Nat := rl1Table.getD j 0

/-- RL2 of rounds 0 to 15 (R144). -/
def rl2Phase0 : List Nat := [5, 14, 7, 0, 9, 2, 11, 4, 13, 6, 15, 8, 1, 10, 3, 12]

/-- RL2 of rounds 16 to 31 (R144). -/
def rl2Phase1 : List Nat := [6, 11, 3, 7, 0, 13, 5, 10, 14, 15, 8, 12, 4, 9, 1, 2]

/-- RL2 of rounds 32 to 47 (R144). -/
def rl2Phase2 : List Nat := [15, 5, 1, 3, 7, 14, 6, 9, 11, 8, 12, 2, 10, 0, 4, 13]

/-- RL2 of rounds 48 to 63 (R144). -/
def rl2Phase3 : List Nat := [8, 6, 4, 1, 3, 11, 15, 0, 5, 12, 2, 13, 9, 7, 10, 14]

/-- RL2 of rounds 64 to 79 (R144). -/
def rl2Phase4 : List Nat := [12, 15, 10, 4, 1, 5, 8, 7, 6, 2, 13, 14, 0, 3, 9, 11]

/-- The word-selection table of line 2 (R144). -/
def rl2Table : List Nat :=
  rl2Phase0 ++ rl2Phase1 ++ rl2Phase2 ++ rl2Phase3 ++ rl2Phase4

/-- `RL2[j]` (R144). -/
def rl2 (j : Nat) : Nat := rl2Table.getD j 0

/-- SL1 of rounds 0 to 15 (R145). -/
def sl1Phase0 : List Nat := [11, 14, 15, 12, 5, 8, 7, 9, 11, 13, 14, 15, 6, 7, 9, 8]

/-- SL1 of rounds 16 to 31 (R145). -/
def sl1Phase1 : List Nat := [7, 6, 8, 13, 11, 9, 7, 15, 7, 12, 15, 9, 11, 7, 13, 12]

/-- SL1 of rounds 32 to 47 (R145). -/
def sl1Phase2 : List Nat := [11, 13, 6, 7, 14, 9, 13, 15, 14, 8, 13, 6, 5, 12, 7, 5]

/-- SL1 of rounds 48 to 63 (R145). -/
def sl1Phase3 : List Nat := [11, 12, 14, 15, 14, 15, 9, 8, 9, 14, 5, 6, 8, 6, 5, 12]

/-- SL1 of rounds 64 to 79 (R145). -/
def sl1Phase4 : List Nat := [9, 15, 5, 11, 6, 8, 13, 12, 5, 12, 13, 14, 11, 8, 5, 6]

/-- The rotation-amount table of line 1 (R145). -/
def sl1Table : List Nat :=
  sl1Phase0 ++ sl1Phase1 ++ sl1Phase2 ++ sl1Phase3 ++ sl1Phase4

/-- `SL1[j]` (R145). -/
def sl1 (j : Nat) : Nat := sl1Table.getD j 0

/-- SL2 of rounds 0 to 15 (R145). -/
def sl2Phase0 : List Nat := [8, 9, 9, 11, 13, 15, 15, 5, 7, 7, 8, 11, 14, 14, 12, 6]

/-- SL2 of rounds 16 to 31 (R145). -/
def sl2Phase1 : List Nat := [9, 13, 15, 7, 12, 8, 9, 11, 7, 7, 12, 7, 6, 15, 13, 11]

/-- SL2 of rounds 32 to 47 (R145). -/
def sl2Phase2 : List Nat := [9, 7, 15, 11, 8, 6, 6, 14, 12, 13, 5, 14, 13, 13, 7, 5]

/-- SL2 of rounds 48 to 63 (R145). -/
def sl2Phase3 : List Nat := [15, 5, 8, 11, 14, 14, 6, 14, 6, 9, 12, 9, 12, 5, 15, 8]

/-- SL2 of rounds 64 to 79 (R145). -/
def sl2Phase4 : List Nat := [8, 5, 12, 9, 12, 5, 14, 6, 8, 13, 6, 5, 15, 13, 11, 11]

/-- The rotation-amount table of line 2 (R145). -/
def sl2Table : List Nat :=
  sl2Phase0 ++ sl2Phase1 ++ sl2Phase2 ++ sl2Phase3 ++ sl2Phase4

/-- `SL2[j]` (R145). -/
def sl2 (j : Nat) : Nat := sl2Table.getD j 0

end Sys2Proof.Machine
end

