-- ==== Sys2Proof/Machine/Operands.lean ====
section
/-! DEFINITION. What the micro-operations compute on words and vectors: the word operators of 00_scope.md R8, the byte
orders of R10 and 20_memory.md R51, the word functions of 41_engine256.md R123 and 42_engine160.md R142, their lifting to
lanes (R9), and the two fixed sequences of 44_commands_and_sequencer.md R183, R184. -/

namespace Sys2Proof.Machine

open Sys2Proof

/-- `SHR(x, n)`: logical right shift (R8). -/
def shr (x : Word) (n : Nat) : Word := x >>> n

/-- `ROTR(x, n)` for `0 < n < 32` (R8). -/
def rotr (x : Word) (n : Nat) : Word := shr x n ||| x <<< (32 - n)

/-- `ROTL(x, n)` for `0 < n < 32` (R8). -/
def rotl (x : Word) (n : Nat) : Word := x <<< n ||| shr x (32 - n)

/-- `sig0`, schedule mixing of `W[t-15]` (R123). -/
def sig0 (x : Word) : Word := rotr x 7 ^^^ rotr x 18 ^^^ shr x 3

/-- `sig1`, schedule mixing of `W[t-2]` (R123). -/
def sig1 (x : Word) : Word := rotr x 17 ^^^ rotr x 19 ^^^ shr x 10

/-- `SIG0`, round mixing of `a` (R123). -/
def bigSig0 (x : Word) : Word := rotr x 2 ^^^ rotr x 13 ^^^ rotr x 22

/-- `SIG1`, round mixing of `e` (R123). -/
def bigSig1 (x : Word) : Word := rotr x 6 ^^^ rotr x 11 ^^^ rotr x 25

/-- `Ch` (R123). -/
def ch (x y z : Word) : Word := (x &&& y) ^^^ (~~~x &&& z)

/-- `Maj` (R123). -/
def maj (x y z : Word) : Word := (x &&& y) ^^^ (x &&& z) ^^^ (y &&& z)

/-- `F0` (R142). -/
def f0 (x y z : Word) : Word := x ^^^ y ^^^ z

/-- `F1` (R142). -/
def f1 (x y z : Word) : Word := (x &&& y) ||| (~~~x &&& z)

/-- `F2` (R142). -/
def f2 (x y z : Word) : Word := (x ||| ~~~y) ^^^ z

/-- `F3` (R142). -/
def f3 (x y z : Word) : Word := (x &&& z) ||| (y &&& ~~~z)

/-- `F4` (R142). -/
def f4 (x y z : Word) : Word := x ^^^ (y ||| ~~~z)

/-- `F_n` by its number (R142). -/
def fSel (n : Nat) : Word → Word → Word → Word :=
  match n with
  | 0 => f0
  | 1 => f1
  | 2 => f2
  | 3 => f3
  | _ => f4

/-- The function line 1 uses in sub-phase `p`: `FSEL1(p) = p` (R142). -/
def fLine1 (p : Nat) : Word → Word → Word → Word := fSel p

/-- The function line 2 uses in sub-phase `p`: `FSEL2(p) = 4 - p` (R142). -/
def fLine2 (p : Nat) : Word → Word → Word → Word := fSel (4 - p)

/-- The byte order of a pipeline's loads and stores (R51): P256 is big-endian, P160 little-endian. -/
inductive ByteOrder where
  | big
  | little
  deriving DecidableEq, Repr

/-- `BE32` (R10): the first byte is most significant. -/
def be32 (b0 b1 b2 b3 : Byte) : Word := b0 ++ b1 ++ b2 ++ b3

/-- `LE32` (R10): the first byte is least significant. -/
def le32 (b0 b1 b2 b3 : Byte) : Word := b3 ++ b2 ++ b1 ++ b0

/-- The word that four bytes in ascending address order hold (R51). -/
def wordOfBytes (o : ByteOrder) (b0 b1 b2 b3 : Byte) : Word :=
  match o with
  | .big => be32 b0 b1 b2 b3
  | .little => le32 b0 b1 b2 b3

/-- `BE32bytes` (R10). -/
def be32Bytes (w : Word) : List Byte :=
  [w.extractLsb' 24 8, w.extractLsb' 16 8, w.extractLsb' 8 8, w.extractLsb' 0 8]

/-- `LE32bytes` (R10). -/
def le32Bytes (w : Word) : List Byte :=
  [w.extractLsb' 0 8, w.extractLsb' 8 8, w.extractLsb' 16 8, w.extractLsb' 24 8]

/-- The four bytes of a word in ascending address order (R51). -/
def bytesOfWord (o : ByteOrder) (w : Word) : List Byte :=
  match o with
  | .big => be32Bytes w
  | .little => le32Bytes w

/-- `LE64bytes` (R10). -/
def le64Bytes (q : BitVec 64) : List Byte :=
  [q.extractLsb' 0 8, q.extractLsb' 8 8, q.extractLsb' 16 8, q.extractLsb' 24 8,
   q.extractLsb' 32 8, q.extractLsb' 40 8, q.extractLsb' 48 8, q.extractLsb' 56 8]

/-- PADTAIL: the 32 bytes that `PAD160` writes from block offset 32 on: 0x80, 23 zero bytes, and the bit length 256
little-endian (R146). -/
def padTail : List Byte := 0x80#8 :: List.replicate 23 0x00#8 ++ le64Bytes 256#64

/-- `bcast(c)`: the vector with `c` in every lane (R9). -/
def bcast (c : Word) : Vec := Vector.replicate 16 c

/-- A word function of one argument in each lane (R9). -/
def lift1 (f : Word → Word) (u : Vec) : Vec := Vector.ofFn fun i => f u[i]

/-- A word function of two arguments in each lane (R9). -/
def lift2 (f : Word → Word → Word) (u v : Vec) : Vec := Vector.ofFn fun i => f u[i] v[i]

/-- A word function of three arguments in each lane (R9). -/
def lift3 (f : Word → Word → Word → Word) (u v w : Vec) : Vec := Vector.ofFn fun i => f u[i] v[i] w[i]

/-- Lane-wise addition mod 2^32 (R8, R9). -/
def vadd (u v : Vec) : Vec := lift2 (fun x y => x + y) u v

/-- Entry `t` of a file of vectors. The rules only ever name entries that exist. -/
def nth {n : Nat} (v : Vector Vec n) (t : Nat) : Vec := if h : t < n then v[t] else bcast 0#32

/-- The file with entry `t` replaced. -/
def setNth {n : Nat} (v : Vector Vec n) (t : Nat) (x : Vec) : Vector Vec n := v.setIfInBounds t x

/-- The new schedule vector of `EXP256 t` from `W[t-2]`, `W[t-7]`, `W[t-15]`, `W[t-16]` (R125). -/
def expand256 (w2 w7 w15 w16 : Vec) : Vec := vadd (vadd (vadd (lift1 sig1 w2) w7) (lift1 sig0 w15)) w16

/-- The new state of `RND256` from the old state, the round constant and the schedule vector; all eight old values are
read before any new one is written (R126). -/
def round256 (k : Word) (w : Vec) (s : Vector Vec 8) : Vector Vec 8 :=
  let a := nth s 0
  let b := nth s 1
  let c := nth s 2
  let d := nth s 3
  let e := nth s 4
  let f := nth s 5
  let g := nth s 6
  let h := nth s 7
  let t1 := vadd (vadd (vadd (vadd h (lift1 bigSig1 e)) (lift3 ch e f g)) (bcast k)) w
  let t2 := vadd (lift1 bigSig0 a) (lift3 maj a b c)
  #v[vadd t1 t2, a, b, c, vadd d t1, e, f, g]

/-- The state with the initial constants added back (R127). -/
def final256 (s : Vector Vec 8) : Vector Vec 8 := Vector.ofFn fun k : Fin 8 => vadd s[k] (bcast (iv256 k))

/-- The new state of one line's round from the old state: function `f`, schedule vector `x`, round constant `k`, rotation
`r`; all five old values are read before any new one is written (R148, R149). -/
def round160 (f : Word → Word → Word → Word) (x : Vec) (k : Word) (r : Nat) (l : Vector Vec 5) : Vector Vec 5 :=
  let a := nth l 0
  let b := nth l 1
  let c := nth l 2
  let d := nth l 3
  let e := nth l 4
  let t := vadd (lift1 (fun y => rotl y r) (vadd (vadd (vadd a (lift3 f b c d)) x) (bcast k))) e
  #v[e, t, b, lift1 (fun y => rotl y 10) c, d]

/-- The combination of the two lines with the initial constants (R150). -/
def combine160 (l1 l2 : Vector Vec 5) : Vector Vec 5 :=
  Vector.ofFn fun k : Fin 5 =>
    vadd (vadd (bcast (iv160 ((k + 1) % 5))) (nth l1 ((k + 2) % 5))) (nth l2 ((k + 3) % 5))

/-- The micro-operation after this one in the fixed sequence of its pipeline, `idle` after the last: the next-state
functions of R183 and R184. An instruction that is no micro-operation has none after it. -/
def nextMicro : Instr → Instr
  | .ldwBE j => if j.toNat < 15 then .ldwBE (j + 1) else .init256
  | .init256 => .exp256 16#7
  | .exp256 t => if t.toNat < 63 then .exp256 (t + 1) else .rnd256 0#7
  | .rnd256 t => if t.toNat < 63 then .rnd256 (t + 1) else .fin256
  | .fin256 => .stwBE 0#7
  | .stwBE k => if k.toNat < 7 then .stwBE (k + 1) else .idle
  | .pad160 => .ldwLE 0#7
  | .ldwLE j => if j.toNat < 15 then .ldwLE (j + 1) else .init160
  | .init160 => .rnd160L1 0#7
  | .rnd160L1 j => if j.toNat < 79 then .rnd160L1 (j + 1) else .rnd160L2 0#7
  | .rnd160L2 j => if j.toNat < 79 then .rnd160L2 (j + 1) else .comb160
  | .comb160 => .stwLE 0#7
  | .stwLE k => if k.toNat < 4 then .stwLE (k + 1) else .idle
  | .idle => .idle
  | .bt256 => .idle
  | .bt160 => .idle
  | .wr64P256Src _ _ => .idle
  | .wr64P256Dst _ _ => .idle
  | .wr64P160Src _ _ => .idle
  | .wr64P160Dst _ _ => .idle
  | .rd64P256Src _ => .idle
  | .rd64P256Dst _ => .idle
  | .rd64P160Src _ => .idle
  | .rd64P160Dst _ => .idle
  | .wr32Cmd _ => .idle
  | .rd32Cmd => .idle
  | .rd32Status => .idle
  | .wr32Status _ => .idle

end Sys2Proof.Machine
end

