-- ==== Sys2Proof/Machine/Ops.lean ====
section
/-! DEFINITION. The named operations over memory, registers and vectors that the meanings are written with: memory
(20_memory.md), pointer registers (44_commands_and_sequencer.md R187), the loader's and the extractor's lane access,
command acceptance (R180), the host's own memory access (R57) and reset (70_reset_and_hazards.md R220).
Taking an exception and returning from one have no operation here: CORE has neither (60_exceptions.md R200, R203, R204);
what stands in their place is acceptance's list of preconditions (R207), `accept`. -/

namespace Sys2Proof.Machine

open Sys2Proof

/-! ## Memory: a list of cells in canonical form -/

/-- What an address that memory does not list reads as. DESIGN CHOICE (log entry 3), unsafe: the spec gives memory no
contents (R32). -/
def Memory.unlisted : Byte := 0x00#8

/-- The byte at an address (R50). -/
def Memory.read : List Host.Cell → Nat → Byte
  | [], _ => Memory.unlisted
  | c :: m, a => if a = c.1 then c.2 else Memory.read m a

/-- Writing one byte, keeping the cells in rising order and listing none that reads as an unlisted address does. -/
def Memory.write : List Host.Cell → Nat → Byte → List Host.Cell
  | [], a, v => if v = Memory.unlisted then [] else [(a, v)]
  | c :: m, a, v =>
    if a < c.1 then (if v = Memory.unlisted then c :: m else (a, v) :: c :: m)
    else if a = c.1 then (if v = Memory.unlisted then m else (a, v) :: m)
    else c :: Memory.write m a v

/-- The canonical form: addresses strictly rising and below 2^64, no cell equal to what an unlisted address reads as. -/
abbrev Memory.wf (m : List Host.Cell) : Prop :=
  m.Pairwise (fun c d => c.1 < d.1) ∧ ∀ c ∈ m, c.2 ≠ Memory.unlisted ∧ c.1 < 2 ^ 64

/-- `MemRead(addr, n)` (R10). -/
def Memory.readBytes (m : List Host.Cell) (a n : Nat) : List Byte :=
  (List.range n).map fun k => Memory.read m (a + k)

/-- `MemWrite(addr, n, b)` (R10). -/
def Memory.writeBytes : List Host.Cell → Nat → List Byte → List Host.Cell
  | m, _, [] => m
  | m, a, b :: bs => Memory.writeBytes (Memory.write m a b) (a + 1) bs

/-- The word at `a` in a byte order (R51). -/
def Memory.readWord (o : ByteOrder) (m : List Host.Cell) (a : Nat) : Word :=
  wordOfBytes o (Memory.read m a) (Memory.read m (a + 1)) (Memory.read m (a + 2)) (Memory.read m (a + 3))

/-- Writing the values of `f` at a list of addresses. -/
def Memory.fill (f : Nat → Byte) (as : List Nat) (m : List Host.Cell) : List Host.Cell :=
  as.foldl (fun m a => Memory.write m a (f a)) m

/-! ### The writes of one micro-operation, all lanes at once -/

/-- What one lane writes: the bytes, and the address of the first. -/
abbrev LaneWrite := Nat × List Byte

/-- The values that the lanes write to one address, in lane order (R60). -/
def competing (ws : List LaneWrite) (a : Nat) : List Byte :=
  ws.filterMap fun w => if w.1 ≤ a then w.2[a - w.1]? else none

/-- The value that stands at an address some lane writes: the common value where the lanes agree, else the one of them
that `pick` names (R60). -/
def settled (pick : Nat → Nat) (ws : List LaneWrite) (a : Nat) : Byte :=
  match competing ws a with
  | [] => Memory.unlisted
  | c :: cs => if cs.all (fun d => d == c) then c else (c :: cs).getD (pick a % (cs.length + 1)) c

/-- The addresses the lanes write. -/
def writtenAddrs (ws : List LaneWrite) : List Nat :=
  ws.flatMap fun w => (List.range w.2.length).map fun k => w.1 + k

/-- Memory after the writes of one micro-operation (R60). -/
def Memory.storeLanes (pick : Nat → Nat) (ws : List LaneWrite) (m : List Host.Cell) : List Host.Cell :=
  Memory.fill (settled pick ws) (writtenAddrs ws) m

/-! ## Which addresses are memory -/

/-- VALID at one address, less the register block (R50, R55). -/
def Platform.validAddr (p : Platform) (a : Nat) : Bool :=
  p.valid.any (fun r => decide (r.1 ≤ a ∧ a < r.1 + r.2)) &&
    !decide (p.base.toNat ≤ a ∧ a < p.base.toNat + Config.regBlockBytes)

/-- A range is valid when it does not wrap and all its addresses are valid (R50). -/
def Platform.validRange (p : Platform) (a n : Nat) : Bool :=
  decide (a + n ≤ 2 ^ 64) && (List.range n).all fun k => p.validAddr (a + k)

/-! ## Pointer registers -/

/-- The pipeline a bank belongs to (R21). -/
def BankId.pipe : BankId → Pipe
  | .src256 => .p256
  | .dst256 => .p256
  | .src160 => .p160
  | .dst160 => .p160

/-- A bank of pointer registers (R21). -/
def State.bank (s : State) : BankId → Bank
  | .src256 => s.p256.src
  | .dst256 => s.p256.dst
  | .src160 => s.p160.src
  | .dst160 => s.p160.dst

/-- The state with a bank replaced. -/
def State.withBank (s : State) (b : BankId) (v : Bank) : State :=
  match b with
  | .src256 => { s with p256 := { s.p256 with src := v } }
  | .dst256 => { s with p256 := { s.p256 with dst := v } }
  | .src160 => { s with p160 := { s.p160 with src := v } }
  | .dst160 => { s with p160 := { s.p160 with dst := v } }

/-- The address that a lane's pointer register holds (R21). -/
def Bank.addr (b : Bank) (i : Fin 16) : Nat := b[i].value.toNat

/-- Whether the host is inside the pipeline's quiescence window (R57 item 3). -/
def State.awaiting (s : State) (p : Pipe) : Bool :=
  match p with
  | .p256 => s.host.await256
  | .p160 => s.host.await160

/-- The state with the value that the host's register read returned. -/
def State.withRdata (s : State) (v : BitVec 64) : State := { s with host := { s.host with rdata := v } }

/-- The state with the bytes that the host's load returned. -/
def State.withLdata (s : State) (bs : List Byte) : State := { s with host := { s.host with ldata := bs } }

/-- A host write of a pointer register: the register holds `v`, nothing else changes (R187). Refused while the pipeline
is busy (R223) and inside the host's quiescence window (R57 item 3). -/
def writePointer (b : BankId) (i : BitVec 4) (v : BitVec 64) (s : State) : Result :=
  if s.busy b.pipe then .refused .regWriteWhileBusy
  else if s.awaiting b.pipe then .refused .hostRace
  else .next (s.withBank b ((s.bank b).set i.toNat { value := v, written := true } i.isLt))

/-- A host read of a pointer register: its value; of a register that holds no value, a free value (R187, log entry 1). -/
def readPointer (b : BankId) (i : BitVec 4) (s : State) : Result :=
  let r := (s.bank b)[i.toNat]'i.isLt
  if r.written then .next (s.withRdata r.value)
  else .next { s with host := { s.host with rdata := Config.freePointer s.host.draws, draws := s.host.draws + 1 } }

/-- A host read of STATUS: its word, zero-extended (R187). A busy bit read as 0 closes that pipeline's quiescence window
(R57 items 2 and 3). -/
def readStatus (s : State) : Result :=
  .next { s with host := { s.host with
    rdata := s.statusWord.setWidth 64
    await256 := s.host.await256 && s.busy .p256
    await160 := s.host.await160 && s.busy .p160 } }

/-! ## Sequencers and working vectors -/

/-- `SEQn <- q` (R11). -/
def State.withSeq (s : State) (p : Pipe) (q : BitVec 11) : State :=
  match p with
  | .p256 => { s with p256 := { s.p256 with seq := q } }
  | .p160 => { s with p160 := { s.p160 with seq := q } }

/-- `SEQn <- next position`, from the micro-operation just performed (R183, R184). -/
def State.advance (s : State) (p : Pipe) (i : Instr) : State := s.withSeq p (seqCode (nextMicro i))

/-- `P256.W[t] <- v`. -/
def State.withW (s : State) (t : Nat) (v : Vec) : State := { s with p256 := { s.p256 with w := setNth s.p256.w t v } }

/-- `P256.S <- v`, all eight at once. -/
def State.withS (s : State) (v : Vector Vec 8) : State := { s with p256 := { s.p256 with s := v } }

/-- `P160.X[j] <- v`. -/
def State.withX (s : State) (j : Nat) (v : Vec) : State := { s with p160 := { s.p160 with x := setNth s.p160.x j v } }

/-- `P160.L1 <- v`, all five at once. -/
def State.withL1 (s : State) (v : Vector Vec 5) : State := { s with p160 := { s.p160 with l1 := v } }

/-- `P160.L2 <- v`, all five at once. -/
def State.withL2 (s : State) (v : Vector Vec 5) : State := { s with p160 := { s.p160 with l2 := v } }

/-- `P160.H <- v`, all five at once. -/
def State.withH (s : State) (v : Vector Vec 5) : State := { s with p160 := { s.p160 with h := v } }

/-! ## The pipelines' memory access, one operation for all lanes -/

/-- Whether the range of `n` bytes at offset `off` from every lane's pointer is valid (R50). -/
def State.lanesValid (s : State) (b : Bank) (off n : Nat) : Bool :=
  (List.finRange 16).all fun i => s.platform.validRange (b.addr i + off) n

/-- The Batch Loader's contract (R112): lane `i` is the word at byte offset `off` from lane `i`'s pointer, in the
pipeline's byte order. -/
def State.gather (s : State) (o : ByteOrder) (b : Bank) (off : Nat) : Vec :=
  Vector.ofFn fun i : Fin 16 => Memory.readWord o s.mem (b.addr i + off)

/-- What the lanes write when lane `i` writes `bytes i` at byte offset `off` from its pointer. -/
def laneWrites (b : Bank) (off : Nat) (bytes : Fin 16 → List Byte) : List LaneWrite :=
  (List.finRange 16).map fun i => (b.addr i + off, bytes i)

/-- The writes of one micro-operation of a pipeline; the pipeline's count of them is the argument of the free value that
settles conflicting ones (R60). -/
def State.scatter (s : State) (p : Pipe) (ws : List LaneWrite) : State :=
  match p with
  | .p256 =>
    { s with
      mem := Memory.storeLanes (Config.freeWinner .p256 s.p256.draws) ws s.mem
      p256 := { s.p256 with draws := s.p256.draws + 1 } }
  | .p160 =>
    { s with
      mem := Memory.storeLanes (Config.freeWinner .p160 s.p160.draws) ws s.mem
      p160 := { s.p160 with draws := s.p160.draws + 1 } }

/-! ## Footprints and command acceptance -/

/-- The range of `n` bytes at offset `off` from each lane's pointer. -/
def laneRanges (b : Bank) (off n : Nat) : List (Nat × Nat) := (List.finRange 16).map fun i => (b.addr i + off, n)

/-- The ranges a command of the pipeline reads (R53). -/
def State.readRanges (s : State) : Pipe → List (Nat × Nat)
  | .p256 => laneRanges s.p256.src 0 Config.blockBytes
  | .p160 => laneRanges s.p160.src 0 Config.blockBytes

/-- The ranges a command of the pipeline writes (R53). -/
def State.writeRanges (s : State) : Pipe → List (Nat × Nat)
  | .p256 => laneRanges s.p256.dst 0 Config.digest256Bytes
  | .p160 =>
    laneRanges s.p160.src Config.padOffset160 (Config.blockBytes - Config.padOffset160) ++
      laneRanges s.p160.dst 0 Config.digest160Bytes

/-- The whole footprint of a command of the pipeline (R53). -/
def State.footprint (s : State) (p : Pipe) : List (Nat × Nat) := s.readRanges p ++ s.writeRanges p

/-- Whether two ranges share an address. -/
def rangesMeet (r q : Nat × Nat) : Bool := decide (0 < r.2 ∧ 0 < q.2 ∧ r.1 < q.1 + q.2 ∧ q.1 < r.1 + r.2)

/-- Whether a range of one list shares an address with a range of the other. -/
def anyMeet (rs qs : List (Nat × Nat)) : Bool := rs.any fun r => qs.any fun q => rangesMeet r q

/-- Whether a byte written by one pipeline's command is read or written by the other's (R62). -/
def State.footprintsConflict (s : State) : Bool :=
  anyMeet (s.writeRanges .p256) (s.footprint .p160) || anyMeet (s.writeRanges .p160) (s.footprint .p256)

/-- All 32 pointer registers of the pipeline were written since reset (R221). -/
def State.pointersWritten (s : State) : Pipe → Bool
  | .p256 => s.p256.src.toList.all (fun r => r.written) && s.p256.dst.toList.all (fun r => r.written)
  | .p160 => s.p160.src.toList.all (fun r => r.written) && s.p160.dst.toList.all (fun r => r.written)

/-- Every block pointer of the pipeline is a multiple of 4 (R52). -/
def State.sourcesAligned (s : State) : Pipe → Bool
  | .p256 => (List.finRange 16).all fun i => decide (s.p256.src.addr i % 4 = 0)
  | .p160 => (List.finRange 16).all fun i => decide (s.p160.src.addr i % 4 = 0)

/-- Every range of the pipeline's footprint is valid (R53). -/
def State.footprintValid (s : State) (p : Pipe) : Bool :=
  (s.footprint p).all fun r => s.platform.validRange r.1 r.2

/-- The other pipeline. -/
def otherPipe : Pipe → Pipe
  | .p256 => .p160
  | .p160 => .p256

/-- The first micro-operation of a pipeline's sequence (R180). -/
def firstMicro : Pipe → Instr
  | .p256 => .ldwBE 0#7
  | .p160 => .pad160

/-- The host's quiescence window opens (R57 item 3). -/
def State.openWindow (s : State) : Pipe → State
  | .p256 => { s with host := { s.host with await256 := true } }
  | .p160 => { s with host := { s.host with await160 := true } }

/-- The state after a pipeline's command is accepted: the sequencer at its first position, so that `BUSYn` reads as 1
(R180). -/
def State.started (s : State) (p : Pipe) : State := (s.withSeq p (seqCode (firstMicro p))).openWindow p

/-- Command acceptance (R180), one atomic step, with the preconditions of R207 in place of exceptions. A command that reads
a pointer register never written since reset is "`unwritten_pointer`, a fault" (93_implementation_defined.md U12; R207,
R221; 95_test_vectors.md section 5.4 and program P6). Which of several broken preconditions is named is open (R202, log
entry 5). -/
def accept (p : Pipe) (s : State) : Result :=
  if s.busy p then .refused .commandWhileBusy
  else if !s.pointersWritten p then .fault (.unwrittenPointer p)
  else if !s.sourcesAligned p then .refused .srcMisaligned
  else if !s.footprintValid p then .refused .badPointer
  else if s.busy (otherPipe p) && s.footprintsConflict then .refused .pipelineRace
  else .next (s.started p)

/-- The refusal that a rejected encoding becomes (R86). -/
def Refusal.ofReject : Reject → Refusal
  | .reservedCommand => .reservedCommand
  | .reservedPosition => .reservedPosition
  | .badRegisterAccess => .badRegisterAccess

/-- A host write of a word to CMD (R180): the command the word names, or a refusal. -/
def writeCmd (w : BitVec 32) (s : State) : Result :=
  match decodeC w with
  | .ok .bt256 => accept .p256 s
  | .ok .bt160 => accept .p160 s
  | .ok _ => .refused .reservedCommand
  | .error r => .refused (Refusal.ofReject r)

/-! ## The host's own memory access, and reset -/

/-- Whether the host may not touch these ranges now: it is inside the pipeline's quiescence window and the ranges meet
(R57 item 3). -/
def State.racesWith (s : State) (p : Pipe) (ranges : List (Nat × Nat)) (r : Nat × Nat) : Bool :=
  s.awaiting p && anyMeet [r] ranges

/-- `st addr, bytes` (R91): refused outside ordinary memory, and where it meets a running command's footprint (R57). -/
def hostStore (a : Nat) (bs : List Byte) (s : State) : Result :=
  if !s.platform.validRange a bs.length then .refused .notMemory
  else if s.racesWith .p256 (s.footprint .p256) (a, bs.length) then .refused .hostRace
  else if s.racesWith .p160 (s.footprint .p160) (a, bs.length) then .refused .hostRace
  else .next { s with mem := Memory.writeBytes s.mem a bs }

/-- `ld addr, n` (R91): refused outside ordinary memory, and where it meets the bytes a running command writes (R57). -/
def hostLoad (a n : Nat) (s : State) : Result :=
  if !s.platform.validRange a n then .refused .notMemory
  else if s.racesWith .p256 (s.writeRanges .p256) (a, n) then .refused .hostRace
  else if s.racesWith .p160 (s.writeRanges .p160) (a, n) then .refused .hostRace
  else .next (s.withLdata (Memory.readBytes s.mem a n))

/-- The addresses of memory in the write footprint of the command that a reset would abandon (R53, R220): none while the
pipeline is idle. -/
def State.abandonedAddrs (s : State) (p : Pipe) : List Nat :=
  if s.busy p then
    ((s.writeRanges p).flatMap fun r => (List.range r.2).map fun k => r.1 + k).filter fun a =>
      decide (a < 2 ^ 64) && s.platform.validAddr a
  else []

/-- Memory after a reset: each byte of an abandoned command's write footprint holds any value (R220; U12 of
93_implementation_defined.md), every other byte what it held. -/
def State.memAfterReset (s : State) : List Host.Cell :=
  Memory.fill (Config.freeAbandoned .p160 s.p160.draws) (s.abandonedAddrs .p160)
    (Memory.fill (Config.freeAbandoned .p256 s.p256.draws) (s.abandonedAddrs .p256) s.mem)

/-- Reset (R220): both sequencers go to IDLE at once, pointer registers and working vectors are as after reset (R32), and
memory is untouched but for the write footprints of the commands in progress, which are abandoned. The counts of free
values run on. -/
def resetCore (s : State) : State :=
  { s with
    p256 := { State256.reset with draws := s.p256.draws + 1 }
    p160 := { State160.reset with draws := s.p160.draws + 1 }
    mem := s.memAfterReset
    host := { s.host with await256 := false, await160 := false } }

end Sys2Proof.Machine
end

