-- ==== Sys2Proof/Machine/Commands.lean ====
section
/-! DEFINITION. The host commands BT256 and BT160 (44_commands_and_sequencer.md R181, R182), and the idle position. -/

namespace Sys2Proof.Machine

open Sys2Proof

/-- `BT256` (R180, R181): acceptance; the pipeline's own turns then perform the sequence of R183. -/
def execBt256 (s : State) : Result := accept .p256 s

/-- `BT160` (R180, R182): acceptance; the pipeline's own turns then perform the sequence of R184. -/
def execBt160 (s : State) : Result := accept .p160 s

/-- `IDLE` (R24, R85): no operation; the pipeline is not busy, and only a command write changes that (R208). -/
def execIdle (s : State) : Result := .next s

end Sys2Proof.Machine
end

