-- ==== Sys2Proof/Machine/Engine256.lean ====
section
/-! DEFINITION. The 256-bit Compression Engine's micro-operations (41_engine256.md), and the function they compute (R129). -/

namespace Sys2Proof.Machine

open Sys2Proof

/-- `INIT256` (R124): every lane of `P256.S[k]` is `IV256[k]`. -/
def execInit256 (s : State) : Result :=
  .next ((s.withS (Vector.ofFn fun k : Fin 8 => bcast (iv256 k))).advance .p256 .init256)

/-- `EXP256 t` (R125). -/
def execExp256 (t : BitVec 7) (s : State) : Result :=
  if ¬ (16 ≤ t.toNat ∧ t.toNat ≤ 63) then .refused .reservedPosition
  else
    let w := s.p256.w
    .next ((s.withW t.toNat
      (expand256 (nth w (t.toNat - 2)) (nth w (t.toNat - 7)) (nth w (t.toNat - 15)) (nth w (t.toNat - 16)))).advance
        .p256 (.exp256 t))

/-- `RND256 t` (R126). -/
def execRnd256 (t : BitVec 7) (s : State) : Result :=
  if ¬ t.toNat ≤ 63 then .refused .reservedPosition
  else .next ((s.withS (round256 (k256 t.toNat) (nth s.p256.w t.toNat) s.p256.s)).advance .p256 (.rnd256 t))

/-- `FIN256` (R127). -/
def execFin256 (s : State) : Result :=
  .next ((s.withS (final256 s.p256.s)).advance .p256 .fin256)

/-! ## The function computed, on one lane's block (R129) -/

/-- One 64-byte block: byte `n` at offset `n`. -/
abbrev Block := Vector Byte 64

/-- Byte `n` of a block. -/
def blockByte (b : Block) (n : Nat) : Byte := if h : n < 64 then b[n] else 0#8

/-- Word `j` of a block in a byte order (R112). -/
def blockWord (o : ByteOrder) (b : Block) (j : Nat) : Word :=
  wordOfBytes o (blockByte b (4 * j)) (blockByte b (4 * j + 1)) (blockByte b (4 * j + 2)) (blockByte b (4 * j + 3))

/-- The next schedule word from the words so far, latest first: the entries at offsets -2, -7, -15 and -16 (R125). -/
def nextSchedWord (ws : List Word) : Word :=
  sig1 (ws.getD 1 0#32) + ws.getD 6 0#32 + sig0 (ws.getD 14 0#32) + ws.getD 15 0#32

/-- The schedule extended by `n` words, latest first (R125). -/
def extendSched : Nat → List Word → List Word
  | 0, ws => ws
  | n + 1, ws => extendSched n (nextSchedWord ws :: ws)

/-- The 64 schedule words of a block, `W[0]` first (R129). -/
def schedule256 (b : Block) : List Word :=
  (extendSched 48 ((List.range 16).map (blockWord .big b)).reverse).reverse

/-- The eight words of the 256-bit engine's state in one lane. -/
structure Hash256 where
  a : Word
  b : Word
  c : Word
  d : Word
  e : Word
  f : Word
  g : Word
  h : Word
  deriving DecidableEq, Repr

/-- One round in one lane (R126). -/
def roundWord256 (k w : Word) (s : Hash256) : Hash256 :=
  let t1 := s.h + bigSig1 s.e + ch s.e s.f s.g + k + w
  let t2 := bigSig0 s.a + maj s.a s.b s.c
  { a := t1 + t2, b := s.a, c := s.b, d := s.c, e := s.d + t1, f := s.e, g := s.f, h := s.g }

/-- The initial constants (R121). -/
def initWord256 : Hash256 :=
  { a := iv256 0, b := iv256 1, c := iv256 2, d := iv256 3, e := iv256 4, f := iv256 5, g := iv256 6, h := iv256 7 }

/-- `C256(B)` (R129), its eight words in order. -/
def c256 (b : Block) : List Word :=
  let sched := schedule256 b
  let s := (List.range 64).foldl (fun s t => roundWord256 (k256 t) (sched.getD t 0#32) s) initWord256
  [iv256 0 + s.a, iv256 1 + s.b, iv256 2 + s.c, iv256 3 + s.d, iv256 4 + s.e, iv256 5 + s.f, iv256 6 + s.g, iv256 7 + s.h]

end Sys2Proof.Machine
end

