-- ==== Sys2Proof/Machine/Engine160.lean ====
section
/-! DEFINITION. The 160-bit Compression Engine's micro-operations (42_engine160.md), and the function they compute (R152). -/

namespace Sys2Proof.Machine

open Sys2Proof

/-- `PAD160` (R146): bytes 32 to 63 of every block become PADTAIL, whatever they held. -/
def execPad160 (s : State) : Result :=
  if !s.lanesValid s.p160.src Config.padOffset160 padTail.length then .refused .badPointer
  else .next ((s.scatter .p160 (laneWrites s.p160.src Config.padOffset160 fun _ => padTail)).advance .p160 .pad160)

/-- `INIT160` (R147): every lane of `P160.L1[k]` and of `P160.L2[k]` is `IV160[k]`. -/
def execInit160 (s : State) : Result :=
  let v : Vector Vec 5 := Vector.ofFn fun k : Fin 5 => bcast (iv160 k)
  .next (((s.withL1 v).withL2 v).advance .p160 .init160)

/-- `RND160.L1 j` (R148). -/
def execRnd160L1 (j : BitVec 7) (s : State) : Result :=
  if ¬ j.toNat ≤ 79 then .refused .reservedPosition
  else
    let p := j.toNat / 16
    .next ((s.withL1 (round160 (fLine1 p) (nth s.p160.x (rl1 j.toNat)) (kl1 p) (sl1 j.toNat) s.p160.l1)).advance
      .p160 (.rnd160L1 j))

/-- `RND160.L2 j` (R149). -/
def execRnd160L2 (j : BitVec 7) (s : State) : Result :=
  if ¬ j.toNat ≤ 79 then .refused .reservedPosition
  else
    let p := j.toNat / 16
    .next ((s.withL2 (round160 (fLine2 p) (nth s.p160.x (rl2 j.toNat)) (kl2 p) (sl2 j.toNat) s.p160.l2)).advance
      .p160 (.rnd160L2 j))

/-- `COMB160` (R150). -/
def execComb160 (s : State) : Result :=
  .next ((s.withH (combine160 s.p160.l1 s.p160.l2)).advance .p160 .comb160)

/-! ## The function computed, on one lane's block (R152) -/

/-- The five words of one line's state in one lane. -/
structure Hash160 where
  a : Word
  b : Word
  c : Word
  d : Word
  e : Word
  deriving DecidableEq, Repr

/-- One round of a line in one lane (R148, R149). -/
def roundWord160 (f : Word → Word → Word → Word) (x k : Word) (r : Nat) (s : Hash160) : Hash160 :=
  { a := s.e, b := rotl (s.a + f s.b s.c s.d + x + k) r + s.e, c := s.b, d := rotl s.c 10, e := s.d }

/-- The initial constants (R141). -/
def initWord160 : Hash160 := { a := iv160 0, b := iv160 1, c := iv160 2, d := iv160 3, e := iv160 4 }

/-- Line 1 in one lane: rounds 0 to 79 on the block's words (R148). -/
def line1Words (b : Block) : Hash160 :=
  (List.range 80).foldl
    (fun s j => roundWord160 (fLine1 (j / 16)) (blockWord .little b (rl1 j)) (kl1 (j / 16)) (sl1 j) s) initWord160

/-- Line 2 in one lane: rounds 0 to 79 on the block's words (R149). -/
def line2Words (b : Block) : Hash160 :=
  (List.range 80).foldl
    (fun s j => roundWord160 (fLine2 (j / 16)) (blockWord .little b (rl2 j)) (kl2 (j / 16)) (sl2 j) s) initWord160

/-- `C160(B)` (R152), its five words in order (R150). -/
def c160 (b : Block) : List Word :=
  let l := line1Words b
  let r := line2Words b
  [iv160 1 + l.c + r.d, iv160 2 + l.d + r.e, iv160 3 + l.e + r.a, iv160 4 + l.a + r.b, iv160 0 + l.b + r.c]

end Sys2Proof.Machine
end

