-- ==== Sys2Proof/Machine/Extractor.lean ====
section
/-! DEFINITION. The Digest Extractor's micro-operations, STW.BE and STW.LE (43_digest_extractor.md). -/

namespace Sys2Proof.Machine

open Sys2Proof

/-- What the lanes write when state word `v` is stored at byte offset `off` from every lane's pointer (R172). -/
def wordWrites (o : ByteOrder) (b : Bank) (off : Nat) (v : Vec) : List LaneWrite :=
  laneWrites b off fun i => bytesOfWord o v[i]

/-- `STW.BE k` (R170): lane `i` of `P256.S[k]` goes big-endian to `P256.DST[i] + 4k`. -/
def execStwBE (k : BitVec 7) (s : State) : Result :=
  if ¬ k.toNat ≤ 7 then .refused .reservedPosition
  else if !s.lanesValid s.p256.dst (4 * k.toNat) 4 then .refused .badPointer
  else
    .next ((s.scatter .p256 (wordWrites .big s.p256.dst (4 * k.toNat) (nth s.p256.s k.toNat))).advance .p256 (.stwBE k))

/-- `STW.LE k` (R171): lane `i` of `P160.H[k]` goes little-endian to `P160.DST[i] + 4k`. -/
def execStwLE (k : BitVec 7) (s : State) : Result :=
  if ¬ k.toNat ≤ 4 then .refused .reservedPosition
  else if !s.lanesValid s.p160.dst (4 * k.toNat) 4 then .refused .badPointer
  else
    .next ((s.scatter .p160 (wordWrites .little s.p160.dst (4 * k.toNat) (nth s.p160.h k.toNat))).advance .p160 (.stwLE k))

end Sys2Proof.Machine
end

