-- ==== Sys2Proof/Machine/Loader.lean ====
section
/-! DEFINITION. The Batch Loader's micro-operations, LDW.BE and LDW.LE (40_batch_loader.md). -/

namespace Sys2Proof.Machine

open Sys2Proof

/-- `LDW.BE j` (R110): `P256.W[j]` lane `i` is the big-endian word at `P256.SRC[i] + 4j`. -/
def execLdwBE (j : BitVec 7) (s : State) : Result :=
  if ¬ j.toNat ≤ 15 then .refused .reservedPosition
  else if !s.lanesValid s.p256.src (4 * j.toNat) 4 then .refused .badPointer
  else .next ((s.withW j.toNat (s.gather .big s.p256.src (4 * j.toNat))).advance .p256 (.ldwBE j))

/-- `LDW.LE j` (R111): `P160.X[j]` lane `i` is the little-endian word at `P160.SRC[i] + 4j`. -/
def execLdwLE (j : BitVec 7) (s : State) : Result :=
  if ¬ j.toNat ≤ 15 then .refused .reservedPosition
  else if !s.lanesValid s.p160.src (4 * j.toNat) 4 then .refused .badPointer
  else .next ((s.withX j.toNat (s.gather .little s.p160.src (4 * j.toNat))).advance .p160 (.ldwLE j))

end Sys2Proof.Machine
end

