-- ==== Sys2Proof/Machine/Registers.lean ====
section
/-! DEFINITION. Host accesses to the register block (30_encoding.md R90; 44_commands_and_sequencer.md R187). -/

namespace Sys2Proof.Machine

open Sys2Proof

/-- `WR64 P256.SRC[i]` (R187). -/
def execWr64P256Src (i : BitVec 4) (v : BitVec 64) (s : State) : Result := writePointer .src256 i v s

/-- `WR64 P256.DST[i]` (R187). -/
def execWr64P256Dst (i : BitVec 4) (v : BitVec 64) (s : State) : Result := writePointer .dst256 i v s

/-- `WR64 P160.SRC[i]` (R187). -/
def execWr64P160Src (i : BitVec 4) (v : BitVec 64) (s : State) : Result := writePointer .src160 i v s

/-- `WR64 P160.DST[i]` (R187). -/
def execWr64P160Dst (i : BitVec 4) (v : BitVec 64) (s : State) : Result := writePointer .dst160 i v s

/-- `RD64 P256.SRC[i]` (R187). -/
def execRd64P256Src (i : BitVec 4) (s : State) : Result := readPointer .src256 i s

/-- `RD64 P256.DST[i]` (R187). -/
def execRd64P256Dst (i : BitVec 4) (s : State) : Result := readPointer .dst256 i s

/-- `RD64 P160.SRC[i]` (R187). -/
def execRd64P160Src (i : BitVec 4) (s : State) : Result := readPointer .src160 i s

/-- `RD64 P160.DST[i]` (R187). -/
def execRd64P160Dst (i : BitVec 4) (s : State) : Result := readPointer .dst160 i s

/-- `WR32 CMD` (R180, R187): gives the command the word names. -/
def execWr32Cmd (w : BitVec 32) (s : State) : Result := writeCmd w s

/-- `RD32 CMD` (R22, R187): returns 0, no side effect. -/
def execRd32Cmd (s : State) : Result := .next (s.withRdata 0#64)

/-- `RD32 STATUS` (R187). -/
def execRd32Status (s : State) : Result := readStatus s

/-- `WR32 STATUS` (R23, R187): ignored, whatever the word. -/
def execWr32Status (_w : BitVec 32) (s : State) : Result := .next s

end Sys2Proof.Machine
end

