-- ==== Sys2Proof/Machine/Dispatch.lean ====
section
/-! DEFINITION. What an instruction does: one arm per row of spec/opcode_table.json. -/

namespace Sys2Proof.Machine

open Sys2Proof

def exec (i : Instr) (s : State) : Host.Outcome State Fault Refusal :=
  match i with
  | .bt256 => Sys2Proof.Machine.execBt256 s
  | .bt160 => Sys2Proof.Machine.execBt160 s
  | .idle => Sys2Proof.Machine.execIdle s
  | .ldwBE j => Sys2Proof.Machine.execLdwBE j s
  | .init256 => Sys2Proof.Machine.execInit256 s
  | .exp256 t => Sys2Proof.Machine.execExp256 t s
  | .rnd256 t => Sys2Proof.Machine.execRnd256 t s
  | .fin256 => Sys2Proof.Machine.execFin256 s
  | .stwBE k => Sys2Proof.Machine.execStwBE k s
  | .pad160 => Sys2Proof.Machine.execPad160 s
  | .ldwLE j => Sys2Proof.Machine.execLdwLE j s
  | .init160 => Sys2Proof.Machine.execInit160 s
  | .rnd160L1 j => Sys2Proof.Machine.execRnd160L1 j s
  | .rnd160L2 j => Sys2Proof.Machine.execRnd160L2 j s
  | .comb160 => Sys2Proof.Machine.execComb160 s
  | .stwLE k => Sys2Proof.Machine.execStwLE k s
  | .wr64P256Src r v => Sys2Proof.Machine.execWr64P256Src r v s
  | .wr64P256Dst r v => Sys2Proof.Machine.execWr64P256Dst r v s
  | .wr64P160Src r v => Sys2Proof.Machine.execWr64P160Src r v s
  | .wr64P160Dst r v => Sys2Proof.Machine.execWr64P160Dst r v s
  | .rd64P256Src r => Sys2Proof.Machine.execRd64P256Src r s
  | .rd64P256Dst r => Sys2Proof.Machine.execRd64P256Dst r s
  | .rd64P160Src r => Sys2Proof.Machine.execRd64P160Src r s
  | .rd64P160Dst r => Sys2Proof.Machine.execRd64P160Dst r s
  | .wr32Cmd w => Sys2Proof.Machine.execWr32Cmd w s
  | .rd32Cmd => Sys2Proof.Machine.execRd32Cmd s
  | .rd32Status => Sys2Proof.Machine.execRd32Status s
  | .wr32Status w => Sys2Proof.Machine.execWr32Status w s

end Sys2Proof.Machine
end

