-- ==== Sys2Proof/Machine/Agents.lean ====
section
/-! DEFINITION. The three agents and their turns (10_state.md R20): a pipeline performs the micro-operation its sequencer
names; the host performs its next pending action; where no rule orders them the choice is free (20_memory.md R59). -/

namespace Sys2Proof.Machine

open Sys2Proof

/-- The position in a pipeline's sequencer (R24). -/
def State.seqOf (s : State) : Pipe → BitVec 11
  | .p256 => s.p256.seq
  | .p160 => s.p160.seq

/-- Run what the decoder read, or refuse what it rejected, by name. -/
def runDecoded (d : Except Reject Instr) (s : State) : Result :=
  match d with
  | .ok i => exec i s
  | .error r => .refused (Refusal.ofReject r)

/-- One turn of a pipeline: the micro-operation at its sequencer's position (R24, R183, R184). -/
def pipeTurn (p : Pipe) (s : State) : Result := runDecoded (decodeSeq p (s.seqOf p)) s

/-- The state with one more pending action of the host, first in line. -/
def State.pushAction (s : State) (h : HostAction) : State :=
  { s with host := { s.host with program := h :: s.host.program } }

/-- One poll of STATUS (R92): the wait ends when the pipeline's busy bit reads 0, and is pending again otherwise. -/
def poll (p : Pipe) (again : HostAction) (s : State) : Result :=
  match exec .rd32Status s with
  | .next t => if s.busy p then .next (t.pushAction again) else .next t
  | .fault r => .fault r
  | .refused r => .refused r

/-- One action of the host (R90, R91, R92, R220). -/
def hostAct (h : HostAction) (s : State) : Result :=
  match h with
  | .cmd w => runDecoded (decode (.cmd w)) s
  | .bus r => runDecoded (decode (.bus r)) s
  | .store a bs => hostStore a bs s
  | .load a n => hostLoad a n s
  | .wait256 => poll .p256 .wait256 s
  | .wait160 => poll .p160 .wait160 s
  | .reset => .next (resetCore s)

/-- One turn of the host: its next pending action, taken off the list; with none pending, nothing (R185). -/
def hostTurn (s : State) : Result :=
  match s.host.program with
  | [] => exec .idle s
  | h :: rest => hostAct h { s with host := { s.host with program := rest } }

/-- One turn of an agent (R20). -/
def agentTurn (a : Agent) (s : State) : Result :=
  match a with
  | .host => hostTurn s
  | .p256 => pipeTurn .p256 s
  | .p160 => pipeTurn .p160 s

/-- Whether the host has an action to perform. A wait on a busy pipeline is none: its next read would return the same busy
bit and leave it pending, and weak fairness says that the pipeline steps first (R92, R185, log entry 9). -/
def State.hostReady (s : State) : Bool :=
  match s.host.program with
  | [] => false
  | .wait256 :: _ => !s.busy .p256
  | .wait160 :: _ => !s.busy .p160
  | _ :: _ => true

/-- The agents that have something to do: a pipeline that is busy, the host with an action to perform (R185). -/
def State.ready (s : State) : List Agent :=
  (if s.busy .p256 then [Agent.p256] else []) ++
    (if s.busy .p160 then [Agent.p160] else []) ++
    (if s.hostReady then [Agent.host] else [])

/-- Whose turn it is, and the state once that is settled: the next of `turns`; when no turn is given, the one agent that
has something to do, or a free choice among several (R59, log entry 9). With nothing to do the run is over (R185), and
an idle pipeline's turn changes nothing. -/
def nextTurn (s : State) : Agent × State :=
  match s.turns with
  | a :: rest => (a, { s with turns := rest })
  | [] =>
    match s.ready with
    | [] => (.p256, s)
    | [a] => (a, s)
    | a :: b :: more =>
      ((a :: b :: more).getD (Config.freeTurn s.draws % (more.length + 2)) a, { s with draws := s.draws + 1 })

/-- One step of the whole system. -/
def systemStep (s : State) : Result := agentTurn (nextTurn s).1 (nextTurn s).2

/-- Where an instruction word must stand for the next step to run it: a command word is the host's next action, a
sequencer position stands in its pipeline's sequencer, and that agent's turn is next (log entry 16). Any other word is
put where the step refuses it. -/
def placeWord (s : State) (nbits w : Nat) : State :=
  if nbits = 16 ∧ w < 2 ^ 11 then
    let q := BitVec.ofNat 11 w
    if (q.extractLsb' 7 4).toNat < 8 then { s.withSeq .p256 q with turns := .p256 :: s.turns }
    else { s.withSeq .p160 q with turns := .p160 :: s.turns }
  else if nbits = 32 ∧ w < 2 ^ 32 then { s.pushAction (.cmd (BitVec.ofNat 32 w)) with turns := .host :: s.turns }
  else { s.pushAction (.cmd 0#32) with turns := .host :: s.turns }

/-! ## Pseudo-instructions (R92), as lists of host actions -/

/-- A `wr64` of R91. -/
def wr64 (offset v : BitVec 64) : HostAction := .bus { kind := .write, width := .w64, offset := offset, data := v }

/-- The 16 pointer writes `Pn.BANK[i], b + i*s` for the bank at `base` (R92). -/
def setPointers (base b s : BitVec 64) : List HostAction :=
  (List.range 16).map fun i => wr64 (base + 8#64 * BitVec.ofNat 64 i) (b + BitVec.ofNat 64 i * s)

/-- `setsrc256 b, s` (R92). -/
def setsrc256 (b s : BitVec 64) : List HostAction := setPointers 0x000#64 b s

/-- `setdst256 b, s` (R92). -/
def setdst256 (b s : BitVec 64) : List HostAction := setPointers 0x080#64 b s

/-- `setsrc160 b, s` (R92). -/
def setsrc160 (b s : BitVec 64) : List HostAction := setPointers 0x100#64 b s

/-- `setdst160 b, s` (R92). -/
def setdst160 (b s : BitVec 64) : List HostAction := setPointers 0x180#64 b s

/-- `bt256` (R92). -/
def bt256Word : HostAction := .cmd 0x00000001#32

/-- `bt160` (R92). -/
def bt160Word : HostAction := .cmd 0x00000002#32

/-- `call256` (R92): `bt256` then `wait256`. -/
def call256 : List HostAction := [bt256Word, .wait256]

/-- `call160` (R92): `bt160` then `wait160`. -/
def call160 : List HostAction := [bt160Word, .wait160]

end Sys2Proof.Machine
end

