-- ==== Sys2Proof/Machine/Step.lean ====
section
/-! DEFINITION. One step of the machine, and where the next step finds an instruction word. Both only call Machine/Agents.lean. -/

namespace Sys2Proof.Machine

open Sys2Proof

/-- One step of the system of host and two pipelines (R20). -/
def step (s : State) : Host.Outcome State Fault Refusal := systemStep s

/-- The state in which the next step runs the instruction word (log entry 16). -/
def State.withFetchWord (s : State) (nbits w : Nat) : State := placeWord s nbits w

end Sys2Proof.Machine
end

