-- ==== Sys2Proof/Safety.lean ====
section
/-! DEFINITION. The terms the statements use: the invariant of the machine, the preconditions of a command in the spec's
own words, the listed sequences of 44_commands_and_sequencer.md R183 and R184, and runs of one pipeline's turns. -/

namespace Sys2Proof.Machine

open Sys2Proof

/-! ## Preconditions and footprints, address by address -/

/-- Every register of the bank was written since reset (R221). -/
abbrev Bank.Written (b : Bank) : Prop := ∀ i : Fin 16, b[i].written = true

/-- Every pointer of the bank is a multiple of 4 (R52). -/
abbrev Bank.Aligned (b : Bank) : Prop := ∀ i : Fin 16, b.addr i % 4 = 0

/-- The range does not wrap and all of it is ordinary memory outside the register block (R50, R55). -/
abbrev Platform.ValidRange (p : Platform) (a n : Nat) : Prop := a + n ≤ 2 ^ 64 ∧ ∀ k, k < n → p.validAddr (a + k) = true

/-- The range of `n` bytes at offset `off` from every lane's pointer is valid. -/
abbrev State.LanesValid (s : State) (b : Bank) (off n : Nat) : Prop :=
  ∀ i : Fin 16, s.platform.ValidRange (b.addr i + off) n

/-- Some lane's range of `n` bytes at offset `off` from its pointer covers the address. -/
abbrev Bank.Covers (b : Bank) (off n a : Nat) : Prop := ∃ i : Fin 16, b.addr i + off ≤ a ∧ a < b.addr i + off + n

/-- An address that a BT256 with these pointers reads (R53). -/
abbrev State.Reads256 (s : State) (a : Nat) : Prop := s.p256.src.Covers 0 64 a

/-- An address that a BT256 with these pointers writes (R53). -/
abbrev State.Writes256 (s : State) (a : Nat) : Prop := s.p256.dst.Covers 0 32 a

/-- An address that a BT160 with these pointers reads (R53). -/
abbrev State.Reads160 (s : State) (a : Nat) : Prop := s.p160.src.Covers 0 64 a

/-- An address that a BT160 with these pointers writes (R53). -/
abbrev State.Writes160 (s : State) (a : Nat) : Prop := s.p160.src.Covers 32 32 a ∨ s.p160.dst.Covers 0 20 a

/-- No byte written by one pipeline's command is read or written by the other's (R62). -/
def State.RaceFree (s : State) : Prop :=
  ∀ a, (s.Writes256 a → ¬s.Reads160 a ∧ ¬s.Writes160 a) ∧ (s.Writes160 a → ¬s.Reads256 a ∧ ¬s.Writes256 a)

/-- What BT256 asks of its 32 pointers (R181). -/
abbrev State.Ready256 (s : State) : Prop :=
  s.p256.src.Written ∧ s.p256.dst.Written ∧ s.p256.src.Aligned ∧
    s.LanesValid s.p256.src 0 64 ∧ s.LanesValid s.p256.dst 0 32

/-- What BT160 asks of its 32 pointers (R182). -/
abbrev State.Ready160 (s : State) : Prop :=
  s.p160.src.Written ∧ s.p160.dst.Written ∧ s.p160.src.Aligned ∧
    s.LanesValid s.p160.src 0 64 ∧ s.LanesValid s.p160.dst 0 20

/-- The ranges of `n` bytes at the lanes' pointers are pairwise disjoint (R224). -/
abbrev Bank.Apart (b : Bank) (n : Nat) : Prop :=
  ∀ i j : Fin 16, i ≠ j → b.addr i + n ≤ b.addr j ∨ b.addr j + n ≤ b.addr i

/-- The ranges of `n` bytes at an offset from the lanes' pointers are pairwise disjoint or equal (R224). -/
abbrev Bank.ApartOrEqual (b : Bank) (n : Nat) : Prop :=
  ∀ i j : Fin 16, b.addr i = b.addr j ∨ b.addr i + n ≤ b.addr j ∨ b.addr j + n ≤ b.addr i

/-- The host's quiescence for one store or load (R57 item 3): inside a pipeline's window the range keeps off these
addresses. -/
abbrev KeepsOff (window : Bool) (touched : Nat → Prop) (a n : Nat) : Prop :=
  window = true → ∀ b, a ≤ b → b < a + n → ¬touched b

/-- Memory reads the same at every address. -/
abbrev State.SameMem (s t : State) : Prop := ∀ a, Memory.read t.mem a = Memory.read s.mem a

/-! ## The sequences of R183 and R184 -/

/-- The micro-operations of BT256, in order (R183). -/
def sequence256 : List Instr :=
  (List.range 16).map (fun j => .ldwBE (BitVec.ofNat 7 j)) ++ [.init256] ++
    (List.range 48).map (fun t => .exp256 (BitVec.ofNat 7 (16 + t))) ++
    (List.range 64).map (fun t => .rnd256 (BitVec.ofNat 7 t)) ++ [.fin256] ++
    (List.range 8).map (fun k => .stwBE (BitVec.ofNat 7 k))

/-- The micro-operations of BT160, in order (R184). -/
def sequence160 : List Instr :=
  [.pad160] ++ (List.range 16).map (fun j => .ldwLE (BitVec.ofNat 7 j)) ++ [.init160] ++
    (List.range 80).map (fun j => .rnd160L1 (BitVec.ofNat 7 j)) ++
    (List.range 80).map (fun j => .rnd160L2 (BitVec.ofNat 7 j)) ++ [.comb160] ++
    (List.range 5).map (fun k => .stwLE (BitVec.ofNat 7 k))

/-- The listed sequence of a pipeline. -/
def sequenceOf : Pipe → List Instr
  | .p256 => sequence256
  | .p160 => sequence160

/-- The sequencer position after `k` micro-operations of the listed sequence, IDLE after the last. -/
def positionAfter (p : Pipe) (k : Nat) : BitVec 11 := seqCode ((sequenceOf p).getD k .idle)

/-! ## Runs of one pipeline's turns -/

/-- `n` turns of one pipeline. -/
def pipeTurns (p : Pipe) : Nat → State → Result
  | 0, s => .next s
  | n + 1, s =>
    match pipeTurn p s with
    | .next t => pipeTurns p n t
    | .fault r => .fault r
    | .refused r => .refused r

/-- The agent that a pipeline is. -/
def agentOf : Pipe → Agent
  | .p256 => .p256
  | .p160 => .p160

/-- The 64 bytes at a lane's block pointer. -/
def State.blockOf (s : State) (b : Bank) (i : Fin 16) : Block := Vector.ofFn fun n : Fin 64 => Memory.read s.mem (b.addr i + n)

/-- The block BT160 hashes in a lane: the 32 message bytes, then PADTAIL (R152). -/
def paddedBlock (msg : Nat → Byte) : Block :=
  Vector.ofFn fun n : Fin 64 => if n.val < 32 then msg n else padTail.getD (n.val - 32) 0#8

/-- Byte `n` of a digest written word by word in a byte order (R173). -/
def digestByte (o : ByteOrder) (ws : List Word) (n : Nat) : Byte := (bytesOfWord o (ws.getD (n / 4) 0#32)).getD (n % 4) 0#8

/-- The bank with its lanes permuted (R189). -/
def Bank.permuted (π : Equiv.Perm (Fin 16)) (b : Bank) : Bank := Vector.ofFn fun i => b[π i]

/-! ## The invariant -/

/-- The position is one that the pipeline's sequencer can hold with a meaning (R86). -/
def legalPosition (p : Pipe) (q : BitVec 11) : Bool :=
  match decodeSeq p q with
  | .ok _ => true
  | .error _ => false

/-- The invariant of the machine: memory in canonical form; each sequencer at a position with a meaning; while a pipeline
is busy, its quiescence window is open (R57) and its command's preconditions hold (R207); while both are busy, their
footprints do not conflict (R62). -/
structure State.Inv (s : State) : Prop where
  mem_wf      : Memory.wf s.mem
  legal256    : legalPosition .p256 s.p256.seq = true
  legal160    : legalPosition .p160 s.p160.seq = true
  window256   : s.busy .p256 = true → s.host.await256 = true
  window160   : s.busy .p160 = true → s.host.await160 = true
  ready256    : s.busy .p256 = true → s.Ready256
  ready160    : s.busy .p160 = true → s.Ready160
  raceFree    : s.busy .p256 = true → s.busy .p160 = true → s.RaceFree

/-- A run of the whole system is over: the host has no more actions and both sequencers are IDLE (R185). -/
def State.Over (s : State) : Prop := s.host.program = [] ∧ s.busy .p256 = false ∧ s.busy .p160 = false

end Sys2Proof.Machine
end

