-- ==== Sys2Proof/Certificates/Slice0/Obligations.lean ====
section
/-! DEFINITION. The statements for the provers, from the numbered rules of spec/. -/

open Sys2Proof Sys2Proof.Machine

/-! ## Encoding (30_encoding.md) -/

/-- Decode and encode agree, for every well-formed instruction of all three formats (R82, R85, R90). -/
def Obligations.DecodeEncodeRoundTrip : Prop :=
  ∀ i : Instr, i.WF → decode (encode i) = .ok i

/-- Every word, position and write access that decodes is the encoding of what it decodes to (R82, R85, R90): no encoding
falls through to a neighbour, and no bit of an accepted word is dropped. A 32-bit write is written with the bus's upper
data half zero. -/
def Obligations.EncodeDecodeRoundTrip : Prop :=
  (∀ w i, decode (.cmd w) = .ok i → encode i = .cmd w) ∧
  (∀ q i, decode (.seq q) = .ok i → encode i = .seq q) ∧
  (∀ (r : BusReq) i, r.kind = .write → (r.width = .w32 → r.data.toNat < 2 ^ 32) →
    decode (.bus r) = .ok i → encode i = .bus r)

/-- The reserved encodings of R86, each rejected by its name: every command word but two; every position whose phase and
index are not in R85's table; every access that R90's map does not list. -/
def Obligations.ReservedEncodingsRejected : Prop :=
  (∀ w : BitVec 32, w ≠ 1 → w ≠ 2 → decode (.cmd w) = .error .reservedCommand) ∧
  (∀ (phase : BitVec 4) (idx : BitVec 7),
    ¬ ((phase = 0x0 ∧ idx = 0) ∨ (phase = 0x1 ∧ idx.toNat ≤ 15) ∨ (phase = 0x2 ∧ idx = 0) ∨
       (phase = 0x3 ∧ 16 ≤ idx.toNat ∧ idx.toNat ≤ 63) ∨ (phase = 0x4 ∧ idx.toNat ≤ 63) ∨ (phase = 0x5 ∧ idx = 0) ∨
       (phase = 0x6 ∧ idx.toNat ≤ 7) ∨ (phase = 0x8 ∧ idx = 0) ∨ (phase = 0x9 ∧ idx.toNat ≤ 15) ∨
       (phase = 0xA ∧ idx = 0) ∨ (phase = 0xB ∧ idx.toNat ≤ 79) ∨ (phase = 0xC ∧ idx.toNat ≤ 79) ∨
       (phase = 0xD ∧ idx = 0) ∨ (phase = 0xE ∧ idx.toNat ≤ 4)) →
    decode (.seq (position phase idx)) = .error .reservedPosition) ∧
  (∀ r : BusReq,
    ¬ ((r.width = .w64 ∧ r.offset.toNat < 0x200 ∧ r.offset.toNat % 8 = 0) ∨
       (r.width = .w32 ∧ (r.offset.toNat = 0x200 ∨ r.offset.toNat = 0x208))) →
    decode (.bus r) = .error .badRegisterAccess)

/-- R90's map: at offset `bank + 8 i` a 64-bit access is the register `i` of that bank, for all 64 registers; 0x200 is CMD,
0x208 is STATUS. -/
def Obligations.RegisterMapDecodes : Prop :=
  (∀ (i : BitVec 4) (v : BitVec 64) (off : BitVec 64),
    (off.toNat = 0x000 + 8 * i.toNat → decode (.bus ⟨.write, .w64, off, v⟩) = .ok (.wr64P256Src i v) ∧
      decode (.bus ⟨.read, .w64, off, v⟩) = .ok (.rd64P256Src i)) ∧
    (off.toNat = 0x080 + 8 * i.toNat → decode (.bus ⟨.write, .w64, off, v⟩) = .ok (.wr64P256Dst i v) ∧
      decode (.bus ⟨.read, .w64, off, v⟩) = .ok (.rd64P256Dst i)) ∧
    (off.toNat = 0x100 + 8 * i.toNat → decode (.bus ⟨.write, .w64, off, v⟩) = .ok (.wr64P160Src i v) ∧
      decode (.bus ⟨.read, .w64, off, v⟩) = .ok (.rd64P160Src i)) ∧
    (off.toNat = 0x180 + 8 * i.toNat → decode (.bus ⟨.write, .w64, off, v⟩) = .ok (.wr64P160Dst i v) ∧
      decode (.bus ⟨.read, .w64, off, v⟩) = .ok (.rd64P160Dst i))) ∧
  (∀ v : BitVec 64, decode (.bus ⟨.write, .w32, 0x200, v⟩) = .ok (.wr32Cmd (v.setWidth 32)) ∧
    decode (.bus ⟨.read, .w32, 0x200, v⟩) = .ok .rd32Cmd ∧
    decode (.bus ⟨.write, .w32, 0x208, v⟩) = .ok (.wr32Status (v.setWidth 32)) ∧
    decode (.bus ⟨.read, .w32, 0x208, v⟩) = .ok .rd32Status)

/-- A few words written out from R82, R85 and R90 decode to what they stand for. -/
def Obligations.SampleWordsDecode : Prop :=
  decode (.cmd 0x00000001#32) = .ok .bt256 ∧
  decode (.cmd 0x00000002#32) = .ok .bt160 ∧
  decode (.seq 0x211#11) = .ok (.rnd256 17#7) ∧
  decode (.seq 0x1BF#11) = .ok (.exp256 63#7) ∧
  decode (.seq 0x704#11) = .ok (.stwLE 4#7) ∧
  decode (.bus ⟨.write, .w64, 0x190#64, 0x40040#64⟩) = .ok (.wr64P160Dst 2#4 0x40040#64)

/-! ## A step runs the decoded instruction -/

/-- When the turn is a pipeline's and its position decodes, the step is `exec` of that micro-operation, with the turn taken
off the list; when the turn is the host's and its next action is a command word or a register access that decodes, the
step is `exec` of that, with the turn and the action taken off. -/
def Obligations.StepRunsDecodedInstruction : Prop :=
  (∀ s rest i, s.turns = .p256 :: rest → decodeSeq .p256 s.p256.seq = .ok i →
    step s = exec i { s with turns := rest }) ∧
  (∀ s rest i, s.turns = .p160 :: rest → decodeSeq .p160 s.p160.seq = .ok i →
    step s = exec i { s with turns := rest }) ∧
  (∀ s rest w acts i, s.turns = .host :: rest → s.host.program = .cmd w :: acts → decode (.cmd w) = .ok i →
    step s = exec i { s with turns := rest, host := { s.host with program := acts } }) ∧
  (∀ s rest r acts i, s.turns = .host :: rest → s.host.program = .bus r :: acts → decode (.bus r) = .ok i →
    step s = exec i { s with turns := rest, host := { s.host with program := acts } })

/-- A turn at an encoding the decoder rejects is refused under the encoding's name (R86): a reserved position, a reserved
command word, a bad register access. -/
def Obligations.RejectedEncodingsRefuseTheStep : Prop :=
  (∀ s p rest r, s.turns = agentOf p :: rest → decodeSeq p (s.seqOf p) = .error r →
    step s = .refused (Refusal.ofReject r)) ∧
  (∀ s rest w acts r, s.turns = .host :: rest → s.host.program = .cmd w :: acts → decode (.cmd w) = .error r →
    step s = .refused (Refusal.ofReject r)) ∧
  (∀ s rest b acts r, s.turns = .host :: rest → s.host.program = .bus b :: acts → decode (.bus b) = .error r →
    step s = .refused (Refusal.ofReject r))

/-- Where no turn is given, the step is the turn of some agent that has something to do (a busy pipeline, or the host with an
action pending); which one is not said, as nothing orders the agents (R59). With nothing to do, the step changes nothing:
CORE does nothing until a command is written (R208, R220). That an agent with nothing to do is not given a turn is the
model's choice (log entry 9). -/
def Obligations.FreeTurnIsSomeReadyAgent : Prop :=
  (∀ s : State, s.turns = [] → s.Over → step s = .next s) ∧
  (∀ s : State, s.turns = [] → ¬ s.Over →
    ∃ a d, step s = agentTurn a { s with draws := d } ∧
      ((a = .p256 ∧ s.busy .p256 = true) ∨ (a = .p160 ∧ s.busy .p160 = true) ∨ (a = .host ∧ s.host.program ≠ [])))

/-- A run that is given `n` turns of one pipeline is those turns, one by one. -/
def Obligations.RunOfTurnsIsPipeTurns : Prop :=
  ∀ (p : Pipe) (n : Nat) (s : State),
    Host.Core.run core n { s with turns := List.replicate n (agentOf p) } = pipeTurns p n { s with turns := [] }

/-! ## The Batch Loader (40_batch_loader.md) -/

/-- `LDW.BE j` (R110): completes whenever its 16 word ranges are valid; byte `n` of lane `i`'s block word is bits
`[31-8n : 24-8n]` of lane `i` of `W[j]`; the next position follows; every other vector, register and byte is unchanged. -/
def Obligations.LdwBELoadsBigEndianWords : Prop :=
  ∀ (j : BitVec 7) (s : State), j.toNat ≤ 15 → s.LanesValid s.p256.src (4 * j.toNat) 4 →
    encode (.ldwBE j) = .seq (BitVec.ofNat 11 (0x080 + j.toNat)) ∧
    ∃ t, exec (.ldwBE j) s = .next t ∧
      (∀ (i : Fin 16) (n : Nat), n < 4 →
        (nth t.p256.w j.toNat)[i].extractLsb' (24 - 8 * n) 8 =
          Memory.read s.mem (s.p256.src.addr i + 4 * j.toNat + n)) ∧
      (∀ u, u ≠ j.toNat → nth t.p256.w u = nth s.p256.w u) ∧
      t.p256.seq = (if j = 15 then position 0x2 0 else position 0x1 (j + 1)) ∧
      t = { s with p256 := { s.p256 with w := t.p256.w, seq := t.p256.seq } } ∧ s.SameMem t

/-- `LDW.LE j` (R111): as LDW.BE, with byte `n` at bits `[8n+7 : 8n]` of lane `i` of `X[j]`. -/
def Obligations.LdwLELoadsLittleEndianWords : Prop :=
  ∀ (j : BitVec 7) (s : State), j.toNat ≤ 15 → s.LanesValid s.p160.src (4 * j.toNat) 4 →
    encode (.ldwLE j) = .seq (BitVec.ofNat 11 (0x480 + j.toNat)) ∧
    ∃ t, exec (.ldwLE j) s = .next t ∧
      (∀ (i : Fin 16) (n : Nat), n < 4 →
        (nth t.p160.x j.toNat)[i].extractLsb' (8 * n) 8 =
          Memory.read s.mem (s.p160.src.addr i + 4 * j.toNat + n)) ∧
      (∀ u, u ≠ j.toNat → nth t.p160.x u = nth s.p160.x u) ∧
      t.p160.seq = (if j = 15 then position 0xA 0 else position 0x9 (j + 1)) ∧
      t = { s with p160 := { s.p160 with x := t.p160.x, seq := t.p160.seq } } ∧ s.SameMem t

/-! ## The 256-bit engine (41_engine256.md) -/

/-- `INIT256` (R124, with R121's constants) and `INIT160` (R147, with R141's): every lane of every state vector holds the
table's constant, whatever it held before; nothing else changes but the position. The constants are what the spec gives
from general knowledge (93_implementation_defined.md G1, G5; log entry 18). -/
def Obligations.InitSetsTheInitialConstants : Prop :=
  encode .init256 = .seq 0x100 ∧ encode .init160 = .seq 0x500 ∧
  (∀ s : State, ∃ t, exec .init256 s = .next t ∧
    (∀ i : Fin 16,
      (nth t.p256.s 0)[i] = 0x6A09E667 ∧ (nth t.p256.s 1)[i] = 0xBB67AE85 ∧ (nth t.p256.s 2)[i] = 0x3C6EF372 ∧
      (nth t.p256.s 3)[i] = 0xA54FF53A ∧ (nth t.p256.s 4)[i] = 0x510E527F ∧ (nth t.p256.s 5)[i] = 0x9B05688C ∧
      (nth t.p256.s 6)[i] = 0x1F83D9AB ∧ (nth t.p256.s 7)[i] = 0x5BE0CD19) ∧
    t.p256.seq = position 0x3 16 ∧
    t = { s with p256 := { s.p256 with s := t.p256.s, seq := t.p256.seq } } ∧ s.SameMem t) ∧
  (∀ s : State, ∃ t, exec .init160 s = .next t ∧
    (∀ l, (l = t.p160.l1 ∨ l = t.p160.l2) → ∀ i : Fin 16,
      (nth l 0)[i] = 0x67452301 ∧ (nth l 1)[i] = 0xEFCDAB89 ∧ (nth l 2)[i] = 0x98BADCFE ∧
      (nth l 3)[i] = 0x10325476 ∧ (nth l 4)[i] = 0xC3D2E1F0) ∧
    t.p160.seq = position 0xB 0 ∧
    t = { s with p160 := { s.p160 with l1 := t.p160.l1, l2 := t.p160.l2, seq := t.p160.seq } } ∧ s.SameMem t)

/-- `EXP256 t` (R125, R123): lane by lane, the four-term sum mod 2^32 with `sig1` on entry -2 and `sig0` on entry -15, the
rotations as Lean's own; every other vector is unchanged. The mixing functions are the spec's general knowledge (G3, log
entry 18). -/
def Obligations.Exp256ExtendsTheSchedule : Prop :=
  ∀ (t : BitVec 7) (s : State), 16 ≤ t.toNat → t.toNat ≤ 63 →
    encode (.exp256 t) = .seq (BitVec.ofNat 11 (0x180 + t.toNat)) ∧
    ∃ u, exec (.exp256 t) s = .next u ∧
      (∀ i : Fin 16,
        let w : Nat → Word := fun n => (nth s.p256.w (t.toNat - n))[i]
        (nth u.p256.w t.toNat)[i] =
          ((w 2).rotateRight 17 ^^^ (w 2).rotateRight 19 ^^^ (w 2) >>> 10) + w 7 +
            ((w 15).rotateRight 7 ^^^ (w 15).rotateRight 18 ^^^ (w 15) >>> 3) + w 16) ∧
      (∀ n, n ≠ t.toNat → nth u.p256.w n = nth s.p256.w n) ∧
      u.p256.seq = (if t = 63 then position 0x4 0 else position 0x3 (t + 1)) ∧
      u = { s with p256 := { s.p256 with w := u.p256.w, seq := u.p256.seq } } ∧ s.SameMem u

/-- `RND256 t` (R126, R123): lane by lane, from the old state alone, `T1` and `T2` and the rotation of the eight words, the
new e being `d + T1`; nothing else changes but the position. The composition and the constants are the spec's general
knowledge (G2, G3, G4, log entry 18). -/
def Obligations.Rnd256PerformsOneRound : Prop :=
  ∀ (t : BitVec 7) (s : State), t.toNat ≤ 63 →
    encode (.rnd256 t) = .seq (BitVec.ofNat 11 (0x200 + t.toNat)) ∧
    ∃ u, exec (.rnd256 t) s = .next u ∧
      (∀ i : Fin 16,
        let x : Nat → Word := fun k => (nth s.p256.s k)[i]
        let y : Nat → Word := fun k => (nth u.p256.s k)[i]
        let t1 := x 7 + ((x 4).rotateRight 6 ^^^ (x 4).rotateRight 11 ^^^ (x 4).rotateRight 25) +
          ((x 4 &&& x 5) ^^^ (~~~(x 4) &&& x 6)) + k256 t.toNat + (nth s.p256.w t.toNat)[i]
        let t2 := ((x 0).rotateRight 2 ^^^ (x 0).rotateRight 13 ^^^ (x 0).rotateRight 22) +
          ((x 0 &&& x 1) ^^^ (x 0 &&& x 2) ^^^ (x 1 &&& x 2))
        y 0 = t1 + t2 ∧ y 1 = x 0 ∧ y 2 = x 1 ∧ y 3 = x 2 ∧ y 4 = x 3 + t1 ∧ y 5 = x 4 ∧ y 6 = x 5 ∧ y 7 = x 6) ∧
      u.p256.seq = (if t = 63 then position 0x5 0 else position 0x4 (t + 1)) ∧
      u = { s with p256 := { s.p256 with s := u.p256.s, seq := u.p256.seq } } ∧ s.SameMem u

/-- `FIN256` (R127) adds `IV256[k]` to every lane of `S[k]`, mod 2^32. -/
def Obligations.Fin256AddsTheInitialConstants : Prop :=
  ∀ s : State, encode .fin256 = .seq 0x280 ∧
    ∃ t, exec .fin256 s = .next t ∧
      (∀ (i : Fin 16) (k : Nat), k < 8 →
        ((nth t.p256.s k)[i]).toNat = ((nth s.p256.s k)[i].toNat + (iv256 k).toNat) % 2 ^ 32) ∧
      t.p256.seq = position 0x6 0 ∧
      t = { s with p256 := { s.p256 with s := t.p256.s, seq := t.p256.seq } } ∧ s.SameMem t

/-! ## The 160-bit engine (42_engine160.md) -/

/-- `PAD160` (R146): bytes 32 to 63 of every block become 80, 23 zero bytes, 00 01 and six zero bytes, whatever they held,
wherever every lane that writes the byte writes the same value (R60; always so when the padding ranges are pairwise
disjoint or equal, R224); every byte outside those ranges is unchanged. -/
def Obligations.Pad160WritesPaddingAndLength : Prop :=
  ∀ s : State, s.LanesValid s.p160.src 32 32 → Memory.wf s.mem →
    let byte : Nat → Byte := fun n => if n = 32 then 0x80 else if n = 57 then 0x01 else 0x00
    encode .pad160 = .seq 0x400 ∧
    ∃ t, exec .pad160 s = .next t ∧
      (∀ (i : Fin 16) (n : Nat), 32 ≤ n → n < 64 →
        (∀ (j : Fin 16) (m : Nat), 32 ≤ m → m < 64 → s.p160.src.addr j + m = s.p160.src.addr i + n → byte m = byte n) →
        Memory.read t.mem (s.p160.src.addr i + n) = byte n) ∧
      (∀ a, ¬ s.p160.src.Covers 32 32 a → Memory.read t.mem a = Memory.read s.mem a) ∧
      t.p160.seq = position 0x9 0 ∧
      t = { s with mem := t.mem, p160 := { s.p160 with seq := t.p160.seq, draws := t.p160.draws } }

/-- `RND160.L1 j` (R148, R142): lane by lane, from the old state of line 1 alone; the sum wraps before the rotation by
`SL1[j]`, the addition of E after it; line 2 and everything else is unchanged. The functions, the composition and the
tables are the spec's general knowledge (G6, G7, G8, log entry 18). -/
def Obligations.Rnd160L1PerformsOneRound : Prop :=
  ∀ (j : BitVec 7) (s : State), j.toNat ≤ 79 →
    encode (.rnd160L1 j) = .seq (BitVec.ofNat 11 (0x580 + j.toNat)) ∧
    ∃ t, exec (.rnd160L1 j) s = .next t ∧
      (∀ i : Fin 16,
        let x : Nat → Word := fun k => (nth s.p160.l1 k)[i]
        let y : Nat → Word := fun k => (nth t.p160.l1 k)[i]
        let p := j.toNat / 16
        let f := if p = 0 then x 1 ^^^ x 2 ^^^ x 3
          else if p = 1 then (x 1 &&& x 2) ||| (~~~(x 1) &&& x 3)
          else if p = 2 then (x 1 ||| ~~~(x 2)) ^^^ x 3
          else if p = 3 then (x 1 &&& x 3) ||| (x 2 &&& ~~~(x 3))
          else x 1 ^^^ (x 2 ||| ~~~(x 3))
        y 0 = x 4 ∧
        y 1 = (x 0 + f + (nth s.p160.x (rl1 j.toNat))[i] + kl1 p).rotateLeft (sl1 j.toNat) + x 4 ∧
        y 2 = x 1 ∧ y 3 = (x 2).rotateLeft 10 ∧ y 4 = x 3) ∧
      t.p160.seq = (if j = 79 then position 0xC 0 else position 0xB (j + 1)) ∧
      t = { s with p160 := { s.p160 with l1 := t.p160.l1, seq := t.p160.seq } } ∧ s.SameMem t

/-- `RND160.L2 j` (R149, R142): as line 1, with line 2's tables and the functions in the opposite order; line 1 and
everything else is unchanged. The functions, the composition and the tables are the spec's general knowledge (G6, G7, G8,
log entry 18). -/
def Obligations.Rnd160L2PerformsOneRound : Prop :=
  ∀ (j : BitVec 7) (s : State), j.toNat ≤ 79 →
    encode (.rnd160L2 j) = .seq (BitVec.ofNat 11 (0x600 + j.toNat)) ∧
    ∃ t, exec (.rnd160L2 j) s = .next t ∧
      (∀ i : Fin 16,
        let x : Nat → Word := fun k => (nth s.p160.l2 k)[i]
        let y : Nat → Word := fun k => (nth t.p160.l2 k)[i]
        let p := j.toNat / 16
        let f := if p = 0 then x 1 ^^^ (x 2 ||| ~~~(x 3))
          else if p = 1 then (x 1 &&& x 3) ||| (x 2 &&& ~~~(x 3))
          else if p = 2 then (x 1 ||| ~~~(x 2)) ^^^ x 3
          else if p = 3 then (x 1 &&& x 2) ||| (~~~(x 1) &&& x 3)
          else x 1 ^^^ x 2 ^^^ x 3
        y 0 = x 4 ∧
        y 1 = (x 0 + f + (nth s.p160.x (rl2 j.toNat))[i] + kl2 p).rotateLeft (sl2 j.toNat) + x 4 ∧
        y 2 = x 1 ∧ y 3 = (x 2).rotateLeft 10 ∧ y 4 = x 3) ∧
      t.p160.seq = (if j = 79 then position 0xD 0 else position 0xC (j + 1)) ∧
      t = { s with p160 := { s.p160 with l2 := t.p160.l2, seq := t.p160.seq } } ∧ s.SameMem t

/-- `COMB160` (R150): the five combinations written out, lane by lane; both lines are unchanged. The offsets
are the spec's general knowledge (R150, log entry 18). -/
def Obligations.Comb160CombinesTheLines : Prop :=
  ∀ s : State, encode .comb160 = .seq 0x680 ∧
    ∃ t, exec .comb160 s = .next t ∧
      (∀ i : Fin 16,
        let l : Nat → Word := fun k => (nth s.p160.l1 k)[i]
        let r : Nat → Word := fun k => (nth s.p160.l2 k)[i]
        (nth t.p160.h 0)[i] = 0xEFCDAB89 + l 2 + r 3 ∧ (nth t.p160.h 1)[i] = 0x98BADCFE + l 3 + r 4 ∧
        (nth t.p160.h 2)[i] = 0x10325476 + l 4 + r 0 ∧ (nth t.p160.h 3)[i] = 0xC3D2E1F0 + l 0 + r 1 ∧
        (nth t.p160.h 4)[i] = 0x67452301 + l 1 + r 2) ∧
      t.p160.seq = position 0xE 0 ∧
      t = { s with p160 := { s.p160 with h := t.p160.h, seq := t.p160.seq } } ∧ s.SameMem t

/-- R144 and R145's words on the tables, with the sizes: each sub-phase of `RL1` and of `RL2` is a permutation of 0 to 15, and
every entry of `SL1` and of `SL2` is between 5 and 15. -/
def Obligations.RoundTablesAreInRange : Prop :=
  (∀ p : Fin 5, ((List.range 16).map fun n => rl1 (16 * p + n)).Perm (List.range 16) ∧
    ((List.range 16).map fun n => rl2 (16 * p + n)).Perm (List.range 16)) ∧
  (∀ j : Fin 80, 5 ≤ sl1 j ∧ sl1 j ≤ 15 ∧ 5 ≤ sl2 j ∧ sl2 j ≤ 15)

/-- R121 and R122's words on the constants: `IV256[k]` is the first 32 bits of the fractional part of the square root of the
`k`-th prime, `K256[t]` those of the cube root of the `t`-th prime. -/
def Obligations.Constants256AreRootsOfPrimes : Prop :=
  (∀ k : Fin 8, ∃ n : Nat, n ^ 2 ≤ Nat.nth Nat.Prime k * 2 ^ 64 ∧ Nat.nth Nat.Prime k * 2 ^ 64 < (n + 1) ^ 2 ∧
    (iv256 k).toNat = n % 2 ^ 32) ∧
  (∀ t : Fin 64, ∃ n : Nat, n ^ 3 ≤ Nat.nth Nat.Prime t * 2 ^ 96 ∧ Nat.nth Nat.Prime t * 2 ^ 96 < (n + 1) ^ 3 ∧
    (k256 t).toNat = n % 2 ^ 32)

/-! ## The Digest Extractor (43_digest_extractor.md), and conflicting writes (20_memory.md R60) -/

/-- `STW.BE k` (R170): byte `n` at `DST[i] + 4k + n` is bits `[31-8n : 24-8n]` of lane `i` of `S[k]`, wherever every lane
that writes that byte writes the same value (where they differ, R60 leaves it open: see
`ConflictingWritesLeaveOneOfTheValues`); every byte outside the lanes' ranges is unchanged, and so is everything else. -/
def Obligations.StwBEStoresBigEndianWords : Prop :=
  ∀ (k : BitVec 7) (s : State), k.toNat ≤ 7 → s.LanesValid s.p256.dst (4 * k.toNat) 4 → Memory.wf s.mem →
    let byte : Fin 16 → Nat → Byte := fun i n => (nth s.p256.s k.toNat)[i].extractLsb' (24 - 8 * n) 8
    encode (.stwBE k) = .seq (BitVec.ofNat 11 (0x300 + k.toNat)) ∧
    ∃ t, exec (.stwBE k) s = .next t ∧
      (∀ (i : Fin 16) (n : Nat), n < 4 →
        (∀ (j : Fin 16) (m : Nat), m < 4 → s.p256.dst.addr j + m = s.p256.dst.addr i + n → byte j m = byte i n) →
        Memory.read t.mem (s.p256.dst.addr i + 4 * k.toNat + n) = byte i n) ∧
      (∀ a, ¬ s.p256.dst.Covers (4 * k.toNat) 4 a → Memory.read t.mem a = Memory.read s.mem a) ∧
      t.p256.seq = (if k = 7 then position 0x0 0 else position 0x6 (k + 1)) ∧
      t = { s with mem := t.mem, p256 := { s.p256 with seq := t.p256.seq, draws := t.p256.draws } }

/-- `STW.LE k` (R171): as STW.BE, with byte `n` bits `[8n+7 : 8n]` of lane `i` of `H[k]`. With `k` at most 4, no byte at
offset 20 or above of a lane's digest pointer is in that lane's ranges. -/
def Obligations.StwLEStoresLittleEndianWords : Prop :=
  ∀ (k : BitVec 7) (s : State), k.toNat ≤ 4 → s.LanesValid s.p160.dst (4 * k.toNat) 4 → Memory.wf s.mem →
    let byte : Fin 16 → Nat → Byte := fun i n => (nth s.p160.h k.toNat)[i].extractLsb' (8 * n) 8
    encode (.stwLE k) = .seq (BitVec.ofNat 11 (0x700 + k.toNat)) ∧
    ∃ t, exec (.stwLE k) s = .next t ∧
      (∀ (i : Fin 16) (n : Nat), n < 4 →
        (∀ (j : Fin 16) (m : Nat), m < 4 → s.p160.dst.addr j + m = s.p160.dst.addr i + n → byte j m = byte i n) →
        Memory.read t.mem (s.p160.dst.addr i + 4 * k.toNat + n) = byte i n) ∧
      (∀ a, ¬ s.p160.dst.Covers (4 * k.toNat) 4 a → Memory.read t.mem a = Memory.read s.mem a) ∧
      t.p160.seq = (if k = 4 then position 0x0 0 else position 0xE (k + 1)) ∧
      t = { s with mem := t.mem, p160 := { s.p160 with seq := t.p160.seq, draws := t.p160.draws } }

/-- Whatever the overlaps (R60): each storing micro-operation completes, each written byte ends with the value of one of
the competing writes, and no other byte changes. The statement holds for every choice the free value can make (log entry
7). -/
def Obligations.ConflictingWritesLeaveOneOfTheValues : Prop :=
  (∀ (k : BitVec 7) (s : State), k.toNat ≤ 7 → s.LanesValid s.p256.dst (4 * k.toNat) 4 → Memory.wf s.mem →
    ∃ t, exec (.stwBE k) s = .next t ∧
      (∀ a, s.p256.dst.Covers (4 * k.toNat) 4 a → ∃ (i : Fin 16) (n : Nat), n < 4 ∧
        a = s.p256.dst.addr i + 4 * k.toNat + n ∧
        Memory.read t.mem a = (nth s.p256.s k.toNat)[i].extractLsb' (24 - 8 * n) 8) ∧
      (∀ a, ¬ s.p256.dst.Covers (4 * k.toNat) 4 a → Memory.read t.mem a = Memory.read s.mem a)) ∧
  (∀ (k : BitVec 7) (s : State), k.toNat ≤ 4 → s.LanesValid s.p160.dst (4 * k.toNat) 4 → Memory.wf s.mem →
    ∃ t, exec (.stwLE k) s = .next t ∧
      (∀ a, s.p160.dst.Covers (4 * k.toNat) 4 a → ∃ (i : Fin 16) (n : Nat), n < 4 ∧
        a = s.p160.dst.addr i + 4 * k.toNat + n ∧
        Memory.read t.mem a = (nth s.p160.h k.toNat)[i].extractLsb' (8 * n) 8) ∧
      (∀ a, ¬ s.p160.dst.Covers (4 * k.toNat) 4 a → Memory.read t.mem a = Memory.read s.mem a)) ∧
  (∀ s : State, s.LanesValid s.p160.src 32 32 → Memory.wf s.mem →
    ∃ t, exec .pad160 s = .next t ∧
      (∀ a, s.p160.src.Covers 32 32 a → ∃ (i : Fin 16) (n : Nat), 32 ≤ n ∧ n < 64 ∧ a = s.p160.src.addr i + n ∧
        Memory.read t.mem a = if n = 32 then 0x80 else if n = 57 then 0x01 else 0x00) ∧
      (∀ a, ¬ s.p160.src.Covers 32 32 a → Memory.read t.mem a = Memory.read s.mem a))

/-- Where a micro-operation stops: an index outside its row's range (R86; the refusal is the model's choice, log entry 19),
and an access to a range that is not valid (R53's `bad_pointer`; log entry 6). That a busy pipeline reaches neither is
`BusyPipelineIsNeverStuck`. -/
def Obligations.MicroOperationStops : Prop :=
  (∀ (j : BitVec 7) (s : State),
    (15 < j.toNat → exec (.ldwBE j) s = .refused .reservedPosition ∧ exec (.ldwLE j) s = .refused .reservedPosition) ∧
    (j.toNat < 16 ∨ 63 < j.toNat → exec (.exp256 j) s = .refused .reservedPosition) ∧
    (63 < j.toNat → exec (.rnd256 j) s = .refused .reservedPosition) ∧
    (7 < j.toNat → exec (.stwBE j) s = .refused .reservedPosition) ∧
    (79 < j.toNat → exec (.rnd160L1 j) s = .refused .reservedPosition ∧
      exec (.rnd160L2 j) s = .refused .reservedPosition) ∧
    (4 < j.toNat → exec (.stwLE j) s = .refused .reservedPosition)) ∧
  (∀ (j : BitVec 7) (s : State),
    (j.toNat ≤ 15 → ¬ s.LanesValid s.p256.src (4 * j.toNat) 4 → exec (.ldwBE j) s = .refused .badPointer) ∧
    (j.toNat ≤ 15 → ¬ s.LanesValid s.p160.src (4 * j.toNat) 4 → exec (.ldwLE j) s = .refused .badPointer) ∧
    (j.toNat ≤ 7 → ¬ s.LanesValid s.p256.dst (4 * j.toNat) 4 → exec (.stwBE j) s = .refused .badPointer) ∧
    (j.toNat ≤ 4 → ¬ s.LanesValid s.p160.dst (4 * j.toNat) 4 → exec (.stwLE j) s = .refused .badPointer) ∧
    (¬ s.LanesValid s.p160.src 32 32 → exec .pad160 s = .refused .badPointer))

/-! ## Commands (44_commands_and_sequencer.md) -/

/-- Acceptance of BT256 (R180, R181), as the command and as the write of 0x00000001 to CMD: with P256 idle, its pointers
written, aligned and valid, and no race with a busy P160, the sequencer goes to `{0x1, 0}`, BUSY256 reads as 1, the
host's quiescence window opens, and nothing else changes. -/
def Obligations.Bt256IsAccepted : Prop :=
  ∀ s : State, s.busy .p256 = false → s.Ready256 → (s.busy .p160 = true → s.RaceFree) →
    ∃ t, exec .bt256 s = .next t ∧ exec (.wr32Cmd 0x00000001) s = .next t ∧
      t.p256.seq = position 0x1 0 ∧ t.statusWord.getLsbD 0 = true ∧
      t = { s with p256 := { s.p256 with seq := t.p256.seq }, host := { s.host with await256 := true } } ∧ s.SameMem t

/-- Acceptance of BT160 (R180, R182), as the command and as the write of 0x00000002 to CMD. -/
def Obligations.Bt160IsAccepted : Prop :=
  ∀ s : State, s.busy .p160 = false → s.Ready160 → (s.busy .p256 = true → s.RaceFree) →
    ∃ t, exec .bt160 s = .next t ∧ exec (.wr32Cmd 0x00000002) s = .next t ∧
      t.p160.seq = position 0x8 0 ∧ t.statusWord.getLsbD 1 = true ∧
      t = { s with p160 := { s.p160 with seq := t.p160.seq }, host := { s.host with await160 := true } } ∧ s.SameMem t

/-- Where acceptance stops, by the names of R207. Which name stands when several preconditions are broken is the model's
choice (R202, log entry 5). -/
def Obligations.CommandStops : Prop :=
  (∀ s : State,
    (s.busy .p256 = true → exec .bt256 s = .refused .commandWhileBusy) ∧
    (s.busy .p256 = false → ¬ (s.p256.src.Written ∧ s.p256.dst.Written) →
      exec .bt256 s = .fault (.unwrittenPointer .p256)) ∧
    (s.busy .p256 = false → s.p256.src.Written → s.p256.dst.Written → ¬ s.p256.src.Aligned →
      exec .bt256 s = .refused .srcMisaligned) ∧
    (s.busy .p256 = false → s.p256.src.Written → s.p256.dst.Written → s.p256.src.Aligned →
      ¬ (s.LanesValid s.p256.src 0 64 ∧ s.LanesValid s.p256.dst 0 32) → exec .bt256 s = .refused .badPointer) ∧
    (s.busy .p256 = false → s.Ready256 → s.busy .p160 = true → ¬ s.RaceFree → exec .bt256 s = .refused .pipelineRace)) ∧
  (∀ s : State,
    (s.busy .p160 = true → exec .bt160 s = .refused .commandWhileBusy) ∧
    (s.busy .p160 = false → ¬ (s.p160.src.Written ∧ s.p160.dst.Written) →
      exec .bt160 s = .fault (.unwrittenPointer .p160)) ∧
    (s.busy .p160 = false → s.p160.src.Written → s.p160.dst.Written → ¬ s.p160.src.Aligned →
      exec .bt160 s = .refused .srcMisaligned) ∧
    (s.busy .p160 = false → s.p160.src.Written → s.p160.dst.Written → s.p160.src.Aligned →
      ¬ (s.LanesValid s.p160.src 0 64 ∧ s.LanesValid s.p160.dst 0 20) → exec .bt160 s = .refused .badPointer) ∧
    (s.busy .p160 = false → s.Ready160 → s.busy .p256 = true → ¬ s.RaceFree → exec .bt160 s = .refused .pipelineRace))

/-- A write to CMD (R180): the word 1 is BT256, the word 2 is BT160, every other word is `reserved_command` (R86). -/
def Obligations.CmdWriteGivesTheNamedCommand : Prop :=
  ∀ (w : BitVec 32) (s : State),
    (w = 1 → exec (.wr32Cmd w) s = exec .bt256 s) ∧ (w = 2 → exec (.wr32Cmd w) s = exec .bt160 s) ∧
    (w ≠ 1 → w ≠ 2 → exec (.wr32Cmd w) s = .refused .reservedCommand)

/-! ## Host register access (44_commands_and_sequencer.md R187) -/

/-- A pointer write (R187) to an idle pipeline outside the host's quiescence window (R57): the register holds the value,
its 15 neighbours, the other banks and everything else are unchanged. One clause for each bank of R90. -/
def Obligations.PointerWriteSetsOneRegister : Prop :=
  ∀ (i : BitVec 4) (v : BitVec 64) (s : State),
    (s.busy .p256 = false → s.host.await256 = false →
      (∃ t, exec (.wr64P256Src i v) s = .next t ∧ t.p256.src[i.toFin] = ⟨v, true⟩ ∧
        (∀ k : Fin 16, k ≠ i.toFin → t.p256.src[k] = s.p256.src[k]) ∧
        t = { s with p256 := { s.p256 with src := t.p256.src } } ∧ s.SameMem t) ∧
      (∃ t, exec (.wr64P256Dst i v) s = .next t ∧ t.p256.dst[i.toFin] = ⟨v, true⟩ ∧
        (∀ k : Fin 16, k ≠ i.toFin → t.p256.dst[k] = s.p256.dst[k]) ∧
        t = { s with p256 := { s.p256 with dst := t.p256.dst } } ∧ s.SameMem t)) ∧
    (s.busy .p160 = false → s.host.await160 = false →
      (∃ t, exec (.wr64P160Src i v) s = .next t ∧ t.p160.src[i.toFin] = ⟨v, true⟩ ∧
        (∀ k : Fin 16, k ≠ i.toFin → t.p160.src[k] = s.p160.src[k]) ∧
        t = { s with p160 := { s.p160 with src := t.p160.src } } ∧ s.SameMem t) ∧
      (∃ t, exec (.wr64P160Dst i v) s = .next t ∧ t.p160.dst[i.toFin] = ⟨v, true⟩ ∧
        (∀ k : Fin 16, k ≠ i.toFin → t.p160.dst[k] = s.p160.dst[k]) ∧
        t = { s with p160 := { s.p160 with dst := t.p160.dst } } ∧ s.SameMem t))

/-- Where a pointer write stops: `reg_write_while_busy` while the pipeline is busy (R223), `host_race` between completion and
the host's first sight of it (R57 item 3 calls it undefined; that it stops is the model's choice, log entry 11). -/
def Obligations.PointerWriteStops : Prop :=
  ∀ (i : BitVec 4) (v : BitVec 64) (s : State),
    (s.busy .p256 = true → exec (.wr64P256Src i v) s = .refused .regWriteWhileBusy ∧
      exec (.wr64P256Dst i v) s = .refused .regWriteWhileBusy) ∧
    (s.busy .p160 = true → exec (.wr64P160Src i v) s = .refused .regWriteWhileBusy ∧
      exec (.wr64P160Dst i v) s = .refused .regWriteWhileBusy) ∧
    (s.busy .p256 = false → s.host.await256 = true → exec (.wr64P256Src i v) s = .refused .hostRace ∧
      exec (.wr64P256Dst i v) s = .refused .hostRace) ∧
    (s.busy .p160 = false → s.host.await160 = true → exec (.wr64P160Src i v) s = .refused .hostRace ∧
      exec (.wr64P160Dst i v) s = .refused .hostRace)

/-- A pointer read (R187), allowed while busy: returns the 64-bit value of a written register, and has no side effect but
on the returned value. Of a register that holds no value it returns some value, which nothing constrains: the free value
is the model's (log entry 1). -/
def Obligations.PointerReadReturnsTheRegister : Prop :=
  ∀ (i : BitVec 4) (s : State) (x : Instr) (r : PtrReg),
    ((x = .rd64P256Src i ∧ r = s.p256.src[i.toFin]) ∨ (x = .rd64P256Dst i ∧ r = s.p256.dst[i.toFin]) ∨
      (x = .rd64P160Src i ∧ r = s.p160.src[i.toFin]) ∨ (x = .rd64P160Dst i ∧ r = s.p160.dst[i.toFin])) →
    (r.written = true → exec x s = .next { s with host := { s.host with rdata := r.value } }) ∧
    (r.written = false → ∃ v, exec x s =
      .next { s with host := { s.host with rdata := v, draws := s.host.draws + 1 } })

/-- A read of STATUS (R23, R187): bit 0 is BUSY256, bit 1 is BUSY160, every other bit 0, and `BUSYn` is 1 exactly when
`SEQn` is not IDLE; nothing changes but the returned value and the host's quiescence windows, each of which closes exactly
when its busy bit is read as 0 (R57). -/
def Obligations.StatusReadReturnsTheBusyBits : Prop :=
  ∀ s : State, ∃ t, exec .rd32Status s = .next t ∧
    (∀ n, t.host.rdata.getLsbD n = (decide (n = 0 ∧ s.p256.seq ≠ 0) || decide (n = 1 ∧ s.p160.seq ≠ 0))) ∧
    (t.host.await256 = true ↔ s.host.await256 = true ∧ s.p256.seq ≠ 0) ∧
    (t.host.await160 = true ↔ s.host.await160 = true ∧ s.p160.seq ≠ 0) ∧
    t = { s with host := { s.host with
      rdata := t.host.rdata, await256 := t.host.await256, await160 := t.host.await160 } } ∧ s.SameMem t

/-- IDLE is no operation (R24, R85); a write of STATUS is ignored (R23, R187); a read of CMD returns 0 with no side effect
(R22, R187). -/
def Obligations.IdleStatusWriteAndCmdRead : Prop :=
  ∀ s : State, exec .idle s = .next s ∧ (∀ w, exec (.wr32Status w) s = .next s) ∧
    exec .rd32Cmd s = .next { s with host := { s.host with rdata := 0 } }

/-- What is written to a pointer register is what a read returns (R187), through any of the four banks' own offsets. -/
def Obligations.PointerWriteThenRead : Prop :=
  ∀ (i : BitVec 4) (v : BitVec 64) (s t u : State) (wr rd : Instr),
    ((wr = .wr64P256Src i v ∧ rd = .rd64P256Src i) ∨ (wr = .wr64P256Dst i v ∧ rd = .rd64P256Dst i) ∨
      (wr = .wr64P160Src i v ∧ rd = .rd64P160Src i) ∨ (wr = .wr64P160Dst i v ∧ rd = .rd64P160Dst i)) →
    exec wr s = .next t → exec rd t = .next u → u.host.rdata = v

/-! ## The host's own accesses and reset (20_memory.md R57, 70_reset_and_hazards.md R220) -/

/-- A host store (R91) of ordinary memory that keeps off the footprints of the commands whose windows are open (R57 item 3,
log entry 11) completes; the bytes hold what was stored, every other byte and everything else is unchanged. -/
def Obligations.HostStoreWritesItsBytes : Prop :=
  ∀ (a : Nat) (bs : List Byte) (s : State), s.platform.ValidRange a bs.length → Memory.wf s.mem →
    KeepsOff s.host.await256 (fun b => s.Reads256 b ∨ s.Writes256 b) a bs.length →
    KeepsOff s.host.await160 (fun b => s.Reads160 b ∨ s.Writes160 b) a bs.length →
    ∃ t, hostAct (.store a bs) s = .next t ∧
      (∀ k, k < bs.length → Memory.read t.mem (a + k) = bs.getD k 0) ∧
      (∀ b, ¬ (a ≤ b ∧ b < a + bs.length) → Memory.read t.mem b = Memory.read s.mem b) ∧
      t = { s with mem := t.mem }

/-- A host load (R91) of ordinary memory that keeps off the bytes that commands with open windows write (R57 item 3, log
entry 11) returns those bytes and changes nothing else. -/
def Obligations.HostLoadReturnsItsBytes : Prop :=
  ∀ (a n : Nat) (s : State), s.platform.ValidRange a n →
    KeepsOff s.host.await256 s.Writes256 a n → KeepsOff s.host.await160 s.Writes160 a n →
    ∃ t, hostAct (.load a n) s = .next t ∧ t.host.ldata.length = n ∧
      (∀ k, k < n → t.host.ldata.getD k 0 = Memory.read s.mem (a + k)) ∧
      t = { s with host := { s.host with ldata := t.host.ldata } }

/-- Where the model refuses a host race: inside a pipeline's quiescence window, a store that meets the command's footprint,
and a load that meets the bytes the command writes. R57 item 3 says that the result of such an access is
`UNDEFINED(host_race)`, and R207 and U7 let a model refuse it or give the bytes any value: the refusal is the model's choice
(log entry 11). The window is the model's reading of R57 item 3 (log entry 11): it stays open after the command has
completed, until the host's first STATUS read that returns the busy bit as 0. -/
def Obligations.HostRacesAreRefused : Prop :=
  ∀ (s : State) (a : Nat) (bs : List Byte) (n : Nat),
    (s.platform.ValidRange a bs.length →
      ¬ (KeepsOff s.host.await256 (fun b => s.Reads256 b ∨ s.Writes256 b) a bs.length ∧
         KeepsOff s.host.await160 (fun b => s.Reads160 b ∨ s.Writes160 b) a bs.length) →
      hostAct (.store a bs) s = .refused .hostRace) ∧
    (s.platform.ValidRange a n →
      ¬ (KeepsOff s.host.await256 s.Writes256 a n ∧ KeepsOff s.host.await160 s.Writes160 a n) →
      hostAct (.load a n) s = .refused .hostRace)

/-- A wait (R92): one read of STATUS. When the pipeline's busy bit reads 0 the wait is over and the pipeline's window closed;
while it reads 1 the wait is the host's next action again. Either way the returned value is the STATUS word, a window
stays open exactly while its busy bit reads 1 (R57), and nothing else has changed. One read a turn is the model's choice
(log entry 23), and the windows are its reading of R57 (log entry 11). -/
def Obligations.WaitPollsUntilTheBusyBitIsZero : Prop :=
  ∀ (s : State) (h : HostAction) (p : Pipe), ((h = .wait256 ∧ p = .p256) ∨ (h = .wait160 ∧ p = .p160)) →
    ∃ t, hostAct h s = .next t ∧
      (∀ n, t.host.rdata.getLsbD n = (decide (n = 0 ∧ s.busy .p256 = true) || decide (n = 1 ∧ s.busy .p160 = true))) ∧
      (s.busy p = false → t.host.program = s.host.program) ∧
      (s.busy p = true → t.host.program = h :: s.host.program) ∧
      (t.host.await256 = true ↔ s.host.await256 = true ∧ s.busy .p256 = true) ∧
      (t.host.await160 = true ↔ s.host.await160 = true ∧ s.busy .p160 = true) ∧
      t = { s with host := { s.host with
        program := t.host.program, rdata := t.host.rdata, await256 := t.host.await256, await160 := t.host.await160 } }

/-- The host cannot disturb a running command (R57 item 3, R223): in a state with the invariant, a host turn after which the
pipeline is still busy with what it was busy with leaves the pipeline, and every byte of its footprint, as they were. -/
def Obligations.HostTurnsLeaveRunningCommandsAlone : Prop :=
  ∀ s t : State, s.Inv → hostTurn s = .next t →
    (s.busy .p256 = true → t.busy .p256 = true →
      t.p256 = s.p256 ∧ ∀ a, s.Reads256 a ∨ s.Writes256 a → Memory.read t.mem a = Memory.read s.mem a) ∧
    (s.busy .p160 = true → t.busy .p160 = true →
      t.p160 = s.p160 ∧ ∀ a, s.Reads160 a ∨ s.Writes160 a → Memory.read t.mem a = Memory.read s.mem a)

/-- Reset (R220, R32) in any state, a busy pipeline's included: both sequencers IDLE, both busy bits 0, no pointer register
holds a value, both quiescence windows closed, and nothing else of the platform and the host changed. Memory is untouched
when no command is in progress; a reset that interrupts commands leaves every byte outside their write footprints as it
was, and of the bytes inside nothing is said, as they may hold any value (U12 of 93_implementation_defined.md, log entry
13). -/
def Obligations.ResetAbandonsTheCommands : Prop :=
  ∀ s : State, ∃ t, hostAct .reset s = .next t ∧ t.p256.seq = 0 ∧ t.p160.seq = 0 ∧ t.statusWord = 0 ∧
    (∀ (b : BankId) (i : Fin 16), ((t.bank b)[i]).written = false) ∧
    (s.busy .p256 = false → s.busy .p160 = false → t.mem = s.mem) ∧
    (Memory.wf s.mem → ∀ a, (s.busy .p256 = true → ¬ s.Writes256 a) → (s.busy .p160 = true → ¬ s.Writes160 a) →
      Memory.read t.mem a = Memory.read s.mem a) ∧
    t = { s with
      p256 := t.p256, p160 := t.p160, mem := t.mem, host := { s.host with await256 := false, await160 := false } }

/-- The state after reset (R32): busy bits 0, sequencers IDLE, no pointer register holds a value (what the
spec gives), and the invariant of the model holds. -/
def Obligations.ResetStateIsAsTheSpecSays : Prop :=
  State.reset.statusWord = 0 ∧ State.reset.p256.seq = 0 ∧ State.reset.p160.seq = 0 ∧
    (∀ (b : BankId) (i : Fin 16), ((State.reset.bank b)[i]).written = false) ∧ State.reset.Inv

/-! ## The whole machine -/

/-- Every step keeps the invariant, from every state that has it. -/
def Obligations.StepKeepsTheInvariant : Prop :=
  ∀ s t : State, s.Inv → step s = .next t → t.Inv

/-- A busy pipeline is never stuck (R185): in every state with the invariant its turn completes. -/
def Obligations.BusyPipelineIsNeverStuck : Prop :=
  ∀ (s : State) (p : Pipe), s.Inv → s.busy p = true → ∃ t, pipeTurn p s = .next t

/-- The sequences of R183 and R184, whatever the data: BT256 is exactly 138 micro-operations and BT160 exactly 184, in the
listed order; the pipeline is busy until the last and IDLE after it. -/
def Obligations.CommandsRunTheirListedSequences : Prop :=
  sequence256.length = 138 ∧ sequence160.length = 184 ∧
  ∀ (s : State) (p : Pipe) (k : Nat), s.Inv → s.seqOf p = positionAfter p 0 → k ≤ (sequenceOf p).length →
    ∃ t, pipeTurns p k s = .next t ∧ t.seqOf p = positionAfter p k ∧
      (t.busy p = true ↔ k < (sequenceOf p).length)

/-- What one turn of a pipeline leaves alone (R21, R53, R206), in every state: its own pointer registers, the other pipeline,
the host, the platform, and every byte outside its command's write footprint. -/
def Obligations.PipelineTurnsKeepToTheirOwn : Prop :=
  (∀ s t : State, Memory.wf s.mem → pipeTurn .p256 s = .next t →
    t.p160 = s.p160 ∧ t.host = s.host ∧ t.platform = s.platform ∧ t.turns = s.turns ∧ t.draws = s.draws ∧
      t.p256.src = s.p256.src ∧ t.p256.dst = s.p256.dst ∧
      ∀ a, ¬ s.Writes256 a → Memory.read t.mem a = Memory.read s.mem a) ∧
  (∀ s t : State, Memory.wf s.mem → pipeTurn .p160 s = .next t →
    t.p256 = s.p256 ∧ t.host = s.host ∧ t.platform = s.platform ∧ t.turns = s.turns ∧ t.draws = s.draws ∧
      t.p160.src = s.p160.src ∧ t.p160.dst = s.p160.dst ∧
      ∀ a, ¬ s.Writes160 a → Memory.read t.mem a = Memory.read s.mem a)

/-- The two pipelines' turns commute (R59, R206): while both are busy, either order of their next two turns ends in the same
state. -/
def Obligations.PipelineTurnsCommute : Prop :=
  ∀ s : State, s.Inv → s.busy .p256 = true → s.busy .p160 = true →
    ∃ t1 t2 t, pipeTurn .p256 s = .next t1 ∧ pipeTurn .p160 t1 = .next t ∧
      pipeTurn .p160 s = .next t2 ∧ pipeTurn .p256 t2 = .next t

/-- The two lines of the 160-bit engine commute (R149): a round of line 1 and a round of line 2, in either order, leave the
same lines. -/
def Obligations.LineRoundsCommute : Prop :=
  ∀ (j k : BitVec 7) (s a b c d : State),
    exec (.rnd160L1 j) s = .next a → exec (.rnd160L2 k) a = .next b →
    exec (.rnd160L2 k) s = .next c → exec (.rnd160L1 j) c = .next d →
    b.p160.l1 = d.p160.l1 ∧ b.p160.l2 = d.p160.l2 ∧ b = { d with p160 := { d.p160 with seq := b.p160.seq } }

/-- No engine micro-operation moves data between lanes (R27): lane `i` of what it writes is a function of lane `i` of what it
reads. Two states whose vectors agree in a lane still agree in it afterwards. -/
def Obligations.EngineLanesAreIndependent : Prop :=
  ∀ (x : Instr) (i : Fin 16) (s s' t t' : State),
    (x = .init256 ∨ (∃ n, x = .exp256 n) ∨ (∃ n, x = .rnd256 n) ∨ x = .fin256 ∨ x = .init160 ∨
      (∃ n, x = .rnd160L1 n) ∨ (∃ n, x = .rnd160L2 n) ∨ x = .comb160) →
    (∀ k, (nth s.p256.w k)[i] = (nth s'.p256.w k)[i] ∧ (nth s.p256.s k)[i] = (nth s'.p256.s k)[i] ∧
      (nth s.p160.x k)[i] = (nth s'.p160.x k)[i] ∧ (nth s.p160.l1 k)[i] = (nth s'.p160.l1 k)[i] ∧
      (nth s.p160.l2 k)[i] = (nth s'.p160.l2 k)[i] ∧ (nth s.p160.h k)[i] = (nth s'.p160.h k)[i]) →
    exec x s = .next t → exec x s' = .next t' →
    (∀ k, (nth t.p256.w k)[i] = (nth t'.p256.w k)[i] ∧ (nth t.p256.s k)[i] = (nth t'.p256.s k)[i] ∧
      (nth t.p160.x k)[i] = (nth t'.p160.x k)[i] ∧ (nth t.p160.l1 k)[i] = (nth t'.p160.l1 k)[i] ∧
      (nth t.p160.l2 k)[i] = (nth t'.p160.l2 k)[i] ∧ (nth t.p160.h k)[i] = (nth t'.p160.h k)[i])

/-- The net effect of BT256 (R181, R129): once accepted, its 138 turns end IDLE with `C256` of each lane's block, as the
blocks were at acceptance, written big-endian to the lane's digest buffer, and no byte outside the digest buffers changed.
The digest buffers are pairwise disjoint (R224); they may overlap the blocks. -/
def Obligations.Bt256NetEffect : Prop :=
  ∀ s0 s : State, Memory.wf s0.mem → s0.p256.dst.Apart 32 → exec .bt256 s0 = .next s →
    ∃ t, pipeTurns .p256 138 s = .next t ∧ t.busy .p256 = false ∧
      (∀ (i : Fin 16) (n : Nat), n < 32 →
        Memory.read t.mem (s0.p256.dst.addr i + n) = digestByte .big (c256 (s0.blockOf s0.p256.src i)) n) ∧
      (∀ a, ¬ s0.Writes256 a → Memory.read t.mem a = Memory.read s0.mem a) ∧
      t.p256.src = s0.p256.src ∧ t.p256.dst = s0.p256.dst ∧ t.p160 = s0.p160 ∧ t.host = s.host

/-- The net effect of BT160 (R182, R152): once accepted, its first turn pads every block, and its 184 turns end IDLE with
`C160` of each lane's message (bytes 0 to 31 as they are after the padding) and PADTAIL, written little-endian to the
lane's digest buffer; outside the digest buffers memory is as the padding left it. The padding ranges are pairwise disjoint
or equal and the digest buffers pairwise disjoint (R224). -/
def Obligations.Bt160NetEffect : Prop :=
  ∀ s0 s : State, Memory.wf s0.mem → s0.p160.src.ApartOrEqual 32 → s0.p160.dst.Apart 20 → exec .bt160 s0 = .next s →
    ∃ u t, pipeTurns .p160 1 s = .next u ∧ pipeTurns .p160 184 s = .next t ∧ t.busy .p160 = false ∧
      (∀ (i : Fin 16) (n : Nat), n < 20 →
        Memory.read t.mem (s0.p160.dst.addr i + n) =
          digestByte .little (c160 (paddedBlock fun m => Memory.read u.mem (s0.p160.src.addr i + m))) n) ∧
      (∀ (i : Fin 16) (n : Nat), 32 ≤ n → n < 64 →
        Memory.read u.mem (s0.p160.src.addr i + n) = padTail.getD (n - 32) 0) ∧
      (∀ a, ¬ s0.p160.src.Covers 32 32 a → Memory.read u.mem a = Memory.read s0.mem a) ∧
      (∀ a, ¬ s0.p160.dst.Covers 0 20 a → Memory.read t.mem a = Memory.read u.mem a) ∧
      t.p160.src = s0.p160.src ∧ t.p160.dst = s0.p160.dst ∧ t.p256 = s0.p256 ∧ t.host = s.host

/-- No result depends on what an earlier command left in the working vectors (R31): from the start of a command, whatever the
working vectors hold, the whole command ends in the same state. It makes the model's reset values of the working vectors
(log entry 2) unobservable. -/
def Obligations.StaleVectorsNeverMatter : Prop :=
  (∀ (s t t' : State) (w : Vector Vec 64) (v : Vector Vec 8), s.p256.seq = position 0x1 0 →
    pipeTurns .p256 138 s = .next t →
    pipeTurns .p256 138 { s with p256 := { s.p256 with w := w, s := v } } = .next t' → t = t') ∧
  (∀ (s t t' : State) (x : Vector Vec 16) (l1 l2 h : Vector Vec 5), s.p160.seq = position 0x8 0 →
    pipeTurns .p160 184 s = .next t →
    pipeTurns .p160 184 { s with p160 := { s.p160 with x := x, l1 := l1, l2 := l2, h := h } } = .next t' → t = t')

/-- Lane-order invariance (R189 item 2): permuting the lanes' pointers together leaves the memory that the command ends with
unchanged. No written ranges conflict: digest pointers are 4 or more apart (R60), padding ranges disjoint or equal
(R224). -/
def Obligations.LaneOrderDoesNotMatter : Prop :=
  (∀ (π : Equiv.Perm (Fin 16)) (s t t' : State), Memory.wf s.mem → s.p256.seq = position 0x1 0 → s.p256.dst.Apart 4 →
    pipeTurns .p256 138 s = .next t →
    pipeTurns .p256 138
      { s with p256 := { s.p256 with src := s.p256.src.permuted π, dst := s.p256.dst.permuted π } } = .next t' →
    t.mem = t'.mem) ∧
  (∀ (π : Equiv.Perm (Fin 16)) (s t t' : State), Memory.wf s.mem → s.p160.seq = position 0x8 0 →
    s.p160.src.ApartOrEqual 32 → s.p160.dst.Apart 4 →
    pipeTurns .p160 184 s = .next t →
    pipeTurns .p160 184
      { s with p160 := { s.p160 with src := s.p160.src.permuted π, dst := s.p160.dst.permuted π } } = .next t' →
    t.mem = t'.mem)

/-- The end of a run (R185): in a state with the invariant whose host has no more actions, at most 138 + 184 free steps lead to
a state where the run is over, and no step on the way stops, however the free choices fall. That every free turn goes to
an agent with something to do is the model's choice (log entry 9). -/
def Obligations.BusyPipelinesRunToCompletion : Prop :=
  ∀ s : State, s.Inv → s.host.program = [] → s.turns = [] →
    ∃ k t, k ≤ 322 ∧ Host.Core.run core k s = .next t ∧ t.Over

/-- A command is as good as one atomic step (R57, R59, R186): however the host and P160 take their turns in between, when P256
comes to its end (not by a reset, which leaves no register written) the digests are `C256` of the blocks as they were at
acceptance. -/
def Obligations.Bt256UnderAnyInterleaving : Prop :=
  ∀ (s0 s t : State) (m : Nat), s0.Inv → s0.p256.dst.Apart 32 → exec .bt256 s0 = .next s →
    (∀ k, k < m → ∃ u : State, Host.Core.run core k s = .next u ∧ u.busy .p256 = true) →
    Host.Core.run core m s = .next t → t.busy .p256 = false → t.p256.src.Written →
    ∀ (i : Fin 16) (n : Nat), n < 32 →
      Memory.read t.mem (s0.p256.dst.addr i + n) = digestByte .big (c256 (s0.blockOf s0.p256.src i)) n
end

