-- ==== Sys2Proof/Laws/Memory.lean ====
section
/-! SUPPORT. The laws of memory: what a write changes, that every memory operation keeps the canonical form, and that
equal bytes mean equal memories. -/

namespace Sys2Proof.Machine

open Sys2Proof

/-- An address below every listed one reads as unlisted. -/
theorem Memory.read_below {m : List Host.Cell} {a : Nat} (h : ∀ c ∈ m, a < c.1) : Memory.read m a = Memory.unlisted := by
  induction m with
  | nil => rfl
  | cons c m ih =>
    have hc := h c (by simp)
    simp only [Memory.read, if_neg (Nat.ne_of_lt hc)]
    exact ih fun d hd => h d (by simp [hd])

/-- Read after write, in a memory whose addresses rise. -/
theorem Memory.read_write {m : List Host.Cell} (hm : m.Pairwise (fun c d => c.1 < d.1)) (a : Nat) (v : Byte) (b : Nat) :
    Memory.read (Memory.write m a v) b = if b = a then v else Memory.read m b := by
  induction m with
  | nil =>
    by_cases hv : v = Memory.unlisted <;> by_cases hb : b = a <;> simp [Memory.write, Memory.read, hv, hb]
  | cons c m ih =>
    obtain ⟨hlt, hm⟩ := List.pairwise_cons.1 hm
    unfold Memory.write
    by_cases h1 : a < c.1
    · rw [if_pos h1]
      by_cases hv : v = Memory.unlisted
      · rw [if_pos hv]
        by_cases hb : b = a
        · rw [if_pos hb, hv, hb]
          exact Memory.read_below (by
            intro d hd
            rcases List.mem_cons.1 hd with rfl | hd
            · exact h1
            · exact Nat.lt_trans h1 (hlt d hd))
        · rw [if_neg hb]
      · rw [if_neg hv]
        simp only [Memory.read]
    · rw [if_neg h1]
      by_cases h2 : a = c.1
      · rw [if_pos h2]
        by_cases hv : v = Memory.unlisted
        · rw [if_pos hv]
          by_cases hb : b = a
          · rw [if_pos hb, hv, hb, h2]
            exact Memory.read_below hlt
          · rw [if_neg hb]
            simp only [Memory.read]
            rw [if_neg (by rw [← h2]; exact hb)]
        · rw [if_neg hv]
          simp only [Memory.read]
          by_cases hb : b = a
          · simp [hb]
          · rw [if_neg hb, if_neg hb, if_neg (by rw [← h2]; exact hb)]
      · rw [if_neg h2]
        simp only [Memory.read]
        by_cases hb : b = c.1
        · rw [if_pos hb, if_pos hb, if_neg (by omega)]
        · rw [if_neg hb, if_neg hb, ih hm]

/-- What a cell of a written memory is. -/
theorem Memory.mem_write {m : List Host.Cell} {a : Nat} {v : Byte} {c : Host.Cell} (h : c ∈ Memory.write m a v) :
    (c = (a, v) ∧ v ≠ Memory.unlisted) ∨ c ∈ m := by
  induction m with
  | nil =>
    unfold Memory.write at h
    split at h
    · simp at h
    · next hv => exact .inl ⟨by simpa using h, hv⟩
  | cons d m ih =>
    unfold Memory.write at h
    split at h
    · split at h
      · exact .inr h
      · next hv =>
        rcases List.mem_cons.1 h with h | h
        · exact .inl ⟨h, hv⟩
        · exact .inr h
    · split at h
      · split at h
        · exact .inr (List.mem_cons_of_mem _ h)
        · next hv =>
          rcases List.mem_cons.1 h with h | h
          · exact .inl ⟨h, hv⟩
          · exact .inr (List.mem_cons_of_mem _ h)
      · rcases List.mem_cons.1 h with h | h
        · exact .inr (by simp [h])
        · rcases ih h with h | h
          · exact .inl h
          · exact .inr (List.mem_cons_of_mem _ h)

/-- A write keeps the addresses rising. -/
theorem Memory.pairwise_write {m : List Host.Cell} (hm : m.Pairwise (fun c d => c.1 < d.1)) (a : Nat) (v : Byte) :
    (Memory.write m a v).Pairwise (fun c d => c.1 < d.1) := by
  induction m with
  | nil => unfold Memory.write; split <;> simp
  | cons c m ih =>
    obtain ⟨hlt, hm'⟩ := List.pairwise_cons.1 hm
    unfold Memory.write
    split
    · next h1 =>
      split
      · exact hm
      · refine List.pairwise_cons.2 ⟨?_, hm⟩
        intro d hd
        rcases List.mem_cons.1 hd with rfl | hd
        · exact h1
        · exact Nat.lt_trans h1 (hlt d hd)
    · next h1 =>
      split
      · next h2 =>
        split
        · exact hm'
        · exact List.pairwise_cons.2 ⟨fun d hd => by rw [h2]; exact hlt d hd, hm'⟩
      · next h2 =>
        refine List.pairwise_cons.2 ⟨?_, ih hm'⟩
        intro d hd
        rcases Memory.mem_write hd with ⟨rfl, -⟩ | hd
        · simp only; omega
        · exact hlt d hd

/-- A write keeps the canonical form. -/
theorem Memory.wf_write {m : List Host.Cell} (hm : Memory.wf m) {a : Nat} (ha : a < 2 ^ 64) (v : Byte) :
    Memory.wf (Memory.write m a v) := by
  refine ⟨Memory.pairwise_write hm.1 a v, ?_⟩
  intro c hc
  rcases Memory.mem_write hc with ⟨rfl, hv⟩ | hc
  · exact ⟨hv, ha⟩
  · exact hm.2 c hc

/-- `MemWrite` keeps the canonical form. -/
theorem Memory.wf_writeBytes {m : List Host.Cell} (hm : Memory.wf m) {a : Nat} {bs : List Byte}
    (ha : a + bs.length ≤ 2 ^ 64) : Memory.wf (Memory.writeBytes m a bs) := by
  induction bs generalizing m a with
  | nil => exact hm
  | cons b bs ih =>
    simp only [List.length_cons] at ha
    exact ih (Memory.wf_write hm (by omega) b) (by omega)

/-- What `MemWrite` leaves at an address (R10). -/
theorem Memory.read_writeBytes {m : List Host.Cell} (hm : m.Pairwise (fun c d => c.1 < d.1)) (a : Nat) (bs : List Byte)
    (b : Nat) :
    Memory.read (Memory.writeBytes m a bs) b =
      if a ≤ b ∧ b < a + bs.length then bs.getD (b - a) 0 else Memory.read m b := by
  induction bs generalizing m a with
  | nil => simp [Memory.writeBytes, show ¬(a ≤ b ∧ b < a) by omega]
  | cons c bs ih =>
    rw [Memory.writeBytes, ih (Memory.pairwise_write hm a c), Memory.read_write hm]
    by_cases hb : b = a
    · subst hb
      rw [if_neg (by omega), if_pos rfl, if_pos (by simp)]
      simp
    · by_cases h : a ≤ b ∧ b < a + (c :: bs).length
      · rw [if_pos (by simp at h; omega), if_pos h, show b - a = (b - (a + 1)) + 1 by omega, List.getD_cons_succ]
      · rw [if_neg (by simp at h; omega), if_neg hb, if_neg h]

/-- Filling keeps the addresses in rising order. -/
theorem Memory.pairwise_fill {m : List Host.Cell} (hm : m.Pairwise (fun c d => c.1 < d.1)) (f : Nat → Byte)
    (as : List Nat) : (Memory.fill f as m).Pairwise (fun c d => c.1 < d.1) := by
  induction as generalizing m with
  | nil => exact hm
  | cons a as ih => exact ih (Memory.pairwise_write hm a _)

/-- What is read after filling: the values of `f` at the addresses filled, what was there elsewhere. -/
theorem Memory.read_fill {m : List Host.Cell} (hm : m.Pairwise (fun c d => c.1 < d.1)) (f : Nat → Byte)
    (as : List Nat) (b : Nat) : Memory.read (Memory.fill f as m) b = if b ∈ as then f b else Memory.read m b := by
  induction as generalizing m with
  | nil => simp [Memory.fill]
  | cons a as ih =>
    rw [show Memory.fill f (a :: as) m = Memory.fill f as (Memory.write m a (f a)) from rfl,
      ih (Memory.pairwise_write hm a _), Memory.read_write hm]
    by_cases h : b ∈ as <;> by_cases hb : b = a <;> simp [h, hb]

/-- Filling addresses of the address space keeps the canonical form. -/
theorem Memory.wf_fill {m : List Host.Cell} (hm : Memory.wf m) (f : Nat → Byte) {as : List Nat}
    (ha : ∀ a ∈ as, a < 2 ^ 64) : Memory.wf (Memory.fill f as m) := by
  induction as generalizing m with
  | nil => exact hm
  | cons a as ih => exact ih (Memory.wf_write hm (ha a (by simp)) _) (fun b hb => ha b (by simp [hb]))

/-- An address is written exactly when some lane's bytes cover it. -/
theorem mem_writtenAddrs {ws : List LaneWrite} {a : Nat} :
    a ∈ writtenAddrs ws ↔ ∃ w ∈ ws, w.1 ≤ a ∧ a < w.1 + w.2.length := by
  simp only [writtenAddrs, List.mem_flatMap, List.mem_map, List.mem_range]
  constructor
  · rintro ⟨w, hw, k, hk, rfl⟩
    exact ⟨w, hw, by omega, by omega⟩
  · rintro ⟨w, hw, h1, h2⟩
    exact ⟨w, hw, a - w.1, by omega, by omega⟩

/-- What one micro-operation's writes leave at an address: the settled value where some lane writes, else what was there. -/
theorem Memory.read_storeLanes {m : List Host.Cell} (hm : m.Pairwise (fun c d => c.1 < d.1)) (pick : Nat → Nat)
    (ws : List LaneWrite) (a : Nat) :
    Memory.read (Memory.storeLanes pick ws m) a =
      if a ∈ writtenAddrs ws then settled pick ws a else Memory.read m a :=
  Memory.read_fill hm _ _ a

/-- One micro-operation's writes keep the canonical form. -/
theorem Memory.wf_storeLanes {m : List Host.Cell} (hm : Memory.wf m) (pick : Nat → Nat) {ws : List LaneWrite}
    (hw : ∀ w ∈ ws, w.1 + w.2.length ≤ 2 ^ 64) : Memory.wf (Memory.storeLanes pick ws m) := by
  refine Memory.wf_fill hm _ fun a ha => ?_
  obtain ⟨w, hw', -, h2⟩ := mem_writtenAddrs.1 ha
  have := hw w hw'
  omega

/-- The competing values are non-empty exactly where some lane writes, and each is the byte of such a lane. -/
theorem mem_competing {ws : List LaneWrite} {a : Nat} {v : Byte} :
    v ∈ competing ws a ↔ ∃ w ∈ ws, w.1 ≤ a ∧ w.2[a - w.1]? = some v := by
  simp only [competing, List.mem_filterMap]
  constructor
  · rintro ⟨w, hw, h⟩
    split at h
    · next hle => exact ⟨w, hw, hle, h⟩
    · cases h
  · rintro ⟨w, hw, hle, h⟩
    exact ⟨w, hw, by simp [hle, h]⟩

/-- The settled value is one of the competing values (R60). -/
theorem settled_mem (pick : Nat → Nat) {ws : List LaneWrite} {a : Nat} (h : a ∈ writtenAddrs ws) :
    settled pick ws a ∈ competing ws a := by
  obtain ⟨w, hw, h1, h2⟩ := mem_writtenAddrs.1 h
  have hne : w.2[a - w.1] ∈ competing ws a :=
    mem_competing.2 ⟨w, hw, h1, List.getElem?_eq_getElem (by omega)⟩
  unfold settled
  split
  · next he => rw [he] at hne; simp at hne
  · next c cs he =>
    rw [he]
    split
    · simp
    · have hlt : pick a % (cs.length + 1) < (c :: cs).length := by
        simpa using Nat.mod_lt (pick a) (Nat.succ_pos cs.length)
      rw [List.getD_eq_getElem _ _ hlt]
      exact List.getElem_mem hlt

/-- Where every lane that writes an address writes the same value, that value stands (R60). -/
theorem settled_of_agree (pick : Nat → Nat) {ws : List LaneWrite} {a : Nat} {v : Byte} (ha : a ∈ writtenAddrs ws)
    (h : ∀ w ∈ ws, ∀ u, w.1 ≤ a → w.2[a - w.1]? = some u → u = v) : settled pick ws a = v := by
  obtain ⟨w, hw, h1, h2⟩ := mem_competing.1 (settled_mem pick ha)
  exact h w hw _ h1 h2

/-- Two memories in canonical form that read alike are the same list. -/
theorem Memory.ext {m n : List Host.Cell} (hm : Memory.wf m) (hn : Memory.wf n)
    (h : ∀ a, Memory.read m a = Memory.read n a) : m = n := by
  induction m generalizing n with
  | nil =>
    cases n with
    | nil => rfl
    | cons d n =>
      have := h d.1
      simp only [Memory.read, if_pos] at this
      exact absurd this.symm (hn.2 d (by simp)).1
  | cons c m ih =>
    obtain ⟨hlt, hm'⟩ := List.pairwise_cons.1 hm.1
    have hwm : Memory.wf m := ⟨hm', fun d hd => hm.2 d (by simp [hd])⟩
    cases n with
    | nil =>
      have := h c.1
      simp only [Memory.read, if_pos] at this
      exact absurd this (hm.2 c (by simp)).1
    | cons d n =>
      obtain ⟨hltn, hn'⟩ := List.pairwise_cons.1 hn.1
      have hwn : Memory.wf n := ⟨hn', fun d hd => hn.2 d (by simp [hd])⟩
      have hcd : c.1 = d.1 := by
        rcases Nat.lt_trichotomy c.1 d.1 with hl | he | hg
        · have := h c.1
          rw [Memory.read_below (m := d :: n) (by
            intro e he
            rcases List.mem_cons.1 he with rfl | he
            · exact hl
            · exact Nat.lt_trans hl (hltn e he))] at this
          simp only [Memory.read, if_pos] at this
          exact absurd this (hm.2 c (by simp)).1
        · exact he
        · have := h d.1
          rw [Memory.read_below (m := c :: m) (by
            intro e he
            rcases List.mem_cons.1 he with rfl | he
            · exact hg
            · exact Nat.lt_trans hg (hlt e he))] at this
          simp only [Memory.read, if_pos] at this
          exact absurd this.symm (hn.2 d (by simp)).1
      have hv : c.2 = d.2 := by
        have := h c.1
        simpa [Memory.read, hcd] using this
      have hmn : m = n := by
        refine ih hwm hwn ?_
        intro a
        by_cases ha : a = c.1
        · rw [ha, Memory.read_below hlt, hcd, Memory.read_below hltn]
        · have := h a
          simpa [Memory.read, ha, ← hcd] using this
      rw [hmn, Prod.ext hcd hv]

/-- Memory after reset is in canonical form. -/
theorem Memory.wf_reset : Memory.wf State.reset.mem := by simp [State.reset, Memory.wf]

end Sys2Proof.Machine
end

