-- ==== Sys2Proof/Laws/State.lean ====
section
/-! SUPPORT. What each named update of State leaves and sets, field by field; every lemma is true by rfl. -/

namespace Sys2Proof.Machine

open Sys2Proof

variable (s : State)

@[simp] theorem State.withRdata_p256 (v : BitVec 64) : (s.withRdata v).p256 = s.p256 := rfl
@[simp] theorem State.withRdata_p160 (v : BitVec 64) : (s.withRdata v).p160 = s.p160 := rfl
@[simp] theorem State.withRdata_mem (v : BitVec 64) : (s.withRdata v).mem = s.mem := rfl
@[simp] theorem State.withRdata_platform (v : BitVec 64) : (s.withRdata v).platform = s.platform := rfl
@[simp] theorem State.withRdata_turns (v : BitVec 64) : (s.withRdata v).turns = s.turns := rfl
@[simp] theorem State.withRdata_draws (v : BitVec 64) : (s.withRdata v).draws = s.draws := rfl
@[simp] theorem State.withRdata_host_program (v : BitVec 64) : (s.withRdata v).host.program = s.host.program := rfl
@[simp] theorem State.withRdata_host_rdata (v : BitVec 64) : (s.withRdata v).host.rdata = v := rfl
@[simp] theorem State.withRdata_host_ldata (v : BitVec 64) : (s.withRdata v).host.ldata = s.host.ldata := rfl
@[simp] theorem State.withRdata_host_await256 (v : BitVec 64) : (s.withRdata v).host.await256 = s.host.await256 := rfl
@[simp] theorem State.withRdata_host_await160 (v : BitVec 64) : (s.withRdata v).host.await160 = s.host.await160 := rfl
@[simp] theorem State.withRdata_host_draws (v : BitVec 64) : (s.withRdata v).host.draws = s.host.draws := rfl

@[simp] theorem State.withLdata_p256 (bs : List Byte) : (s.withLdata bs).p256 = s.p256 := rfl
@[simp] theorem State.withLdata_p160 (bs : List Byte) : (s.withLdata bs).p160 = s.p160 := rfl
@[simp] theorem State.withLdata_mem (bs : List Byte) : (s.withLdata bs).mem = s.mem := rfl
@[simp] theorem State.withLdata_platform (bs : List Byte) : (s.withLdata bs).platform = s.platform := rfl
@[simp] theorem State.withLdata_turns (bs : List Byte) : (s.withLdata bs).turns = s.turns := rfl
@[simp] theorem State.withLdata_draws (bs : List Byte) : (s.withLdata bs).draws = s.draws := rfl
@[simp] theorem State.withLdata_host_program (bs : List Byte) : (s.withLdata bs).host.program = s.host.program := rfl
@[simp] theorem State.withLdata_host_rdata (bs : List Byte) : (s.withLdata bs).host.rdata = s.host.rdata := rfl
@[simp] theorem State.withLdata_host_ldata (bs : List Byte) : (s.withLdata bs).host.ldata = bs := rfl
@[simp] theorem State.withLdata_host_await256 (bs : List Byte) : (s.withLdata bs).host.await256 = s.host.await256 := rfl
@[simp] theorem State.withLdata_host_await160 (bs : List Byte) : (s.withLdata bs).host.await160 = s.host.await160 := rfl
@[simp] theorem State.withLdata_host_draws (bs : List Byte) : (s.withLdata bs).host.draws = s.host.draws := rfl

@[simp] theorem State.withW_p160 (t : Nat) (v : Vec) : (s.withW t v).p160 = s.p160 := rfl
@[simp] theorem State.withW_mem (t : Nat) (v : Vec) : (s.withW t v).mem = s.mem := rfl
@[simp] theorem State.withW_host (t : Nat) (v : Vec) : (s.withW t v).host = s.host := rfl
@[simp] theorem State.withW_platform (t : Nat) (v : Vec) : (s.withW t v).platform = s.platform := rfl
@[simp] theorem State.withW_turns (t : Nat) (v : Vec) : (s.withW t v).turns = s.turns := rfl
@[simp] theorem State.withW_draws (t : Nat) (v : Vec) : (s.withW t v).draws = s.draws := rfl
@[simp] theorem State.withW_p256_src (t : Nat) (v : Vec) : (s.withW t v).p256.src = s.p256.src := rfl
@[simp] theorem State.withW_p256_dst (t : Nat) (v : Vec) : (s.withW t v).p256.dst = s.p256.dst := rfl
@[simp] theorem State.withW_p256_seq (t : Nat) (v : Vec) : (s.withW t v).p256.seq = s.p256.seq := rfl
@[simp] theorem State.withW_p256_w (t : Nat) (v : Vec) : (s.withW t v).p256.w = setNth s.p256.w t v := rfl
@[simp] theorem State.withW_p256_s (t : Nat) (v : Vec) : (s.withW t v).p256.s = s.p256.s := rfl
@[simp] theorem State.withW_p256_draws (t : Nat) (v : Vec) : (s.withW t v).p256.draws = s.p256.draws := rfl

@[simp] theorem State.withS_p160 (v : Vector Vec 8) : (s.withS v).p160 = s.p160 := rfl
@[simp] theorem State.withS_mem (v : Vector Vec 8) : (s.withS v).mem = s.mem := rfl
@[simp] theorem State.withS_host (v : Vector Vec 8) : (s.withS v).host = s.host := rfl
@[simp] theorem State.withS_platform (v : Vector Vec 8) : (s.withS v).platform = s.platform := rfl
@[simp] theorem State.withS_turns (v : Vector Vec 8) : (s.withS v).turns = s.turns := rfl
@[simp] theorem State.withS_draws (v : Vector Vec 8) : (s.withS v).draws = s.draws := rfl
@[simp] theorem State.withS_p256_src (v : Vector Vec 8) : (s.withS v).p256.src = s.p256.src := rfl
@[simp] theorem State.withS_p256_dst (v : Vector Vec 8) : (s.withS v).p256.dst = s.p256.dst := rfl
@[simp] theorem State.withS_p256_seq (v : Vector Vec 8) : (s.withS v).p256.seq = s.p256.seq := rfl
@[simp] theorem State.withS_p256_w (v : Vector Vec 8) : (s.withS v).p256.w = s.p256.w := rfl
@[simp] theorem State.withS_p256_s (v : Vector Vec 8) : (s.withS v).p256.s = v := rfl
@[simp] theorem State.withS_p256_draws (v : Vector Vec 8) : (s.withS v).p256.draws = s.p256.draws := rfl

@[simp] theorem State.withX_p256 (j : Nat) (v : Vec) : (s.withX j v).p256 = s.p256 := rfl
@[simp] theorem State.withX_mem (j : Nat) (v : Vec) : (s.withX j v).mem = s.mem := rfl
@[simp] theorem State.withX_host (j : Nat) (v : Vec) : (s.withX j v).host = s.host := rfl
@[simp] theorem State.withX_platform (j : Nat) (v : Vec) : (s.withX j v).platform = s.platform := rfl
@[simp] theorem State.withX_turns (j : Nat) (v : Vec) : (s.withX j v).turns = s.turns := rfl
@[simp] theorem State.withX_draws (j : Nat) (v : Vec) : (s.withX j v).draws = s.draws := rfl
@[simp] theorem State.withX_p160_src (j : Nat) (v : Vec) : (s.withX j v).p160.src = s.p160.src := rfl
@[simp] theorem State.withX_p160_dst (j : Nat) (v : Vec) : (s.withX j v).p160.dst = s.p160.dst := rfl
@[simp] theorem State.withX_p160_seq (j : Nat) (v : Vec) : (s.withX j v).p160.seq = s.p160.seq := rfl
@[simp] theorem State.withX_p160_x (j : Nat) (v : Vec) : (s.withX j v).p160.x = setNth s.p160.x j v := rfl
@[simp] theorem State.withX_p160_l1 (j : Nat) (v : Vec) : (s.withX j v).p160.l1 = s.p160.l1 := rfl
@[simp] theorem State.withX_p160_l2 (j : Nat) (v : Vec) : (s.withX j v).p160.l2 = s.p160.l2 := rfl
@[simp] theorem State.withX_p160_h (j : Nat) (v : Vec) : (s.withX j v).p160.h = s.p160.h := rfl
@[simp] theorem State.withX_p160_draws (j : Nat) (v : Vec) : (s.withX j v).p160.draws = s.p160.draws := rfl

@[simp] theorem State.withL1_p256 (v : Vector Vec 5) : (s.withL1 v).p256 = s.p256 := rfl
@[simp] theorem State.withL1_mem (v : Vector Vec 5) : (s.withL1 v).mem = s.mem := rfl
@[simp] theorem State.withL1_host (v : Vector Vec 5) : (s.withL1 v).host = s.host := rfl
@[simp] theorem State.withL1_platform (v : Vector Vec 5) : (s.withL1 v).platform = s.platform := rfl
@[simp] theorem State.withL1_turns (v : Vector Vec 5) : (s.withL1 v).turns = s.turns := rfl
@[simp] theorem State.withL1_draws (v : Vector Vec 5) : (s.withL1 v).draws = s.draws := rfl
@[simp] theorem State.withL1_p160_src (v : Vector Vec 5) : (s.withL1 v).p160.src = s.p160.src := rfl
@[simp] theorem State.withL1_p160_dst (v : Vector Vec 5) : (s.withL1 v).p160.dst = s.p160.dst := rfl
@[simp] theorem State.withL1_p160_seq (v : Vector Vec 5) : (s.withL1 v).p160.seq = s.p160.seq := rfl
@[simp] theorem State.withL1_p160_x (v : Vector Vec 5) : (s.withL1 v).p160.x = s.p160.x := rfl
@[simp] theorem State.withL1_p160_l1 (v : Vector Vec 5) : (s.withL1 v).p160.l1 = v := rfl
@[simp] theorem State.withL1_p160_l2 (v : Vector Vec 5) : (s.withL1 v).p160.l2 = s.p160.l2 := rfl
@[simp] theorem State.withL1_p160_h (v : Vector Vec 5) : (s.withL1 v).p160.h = s.p160.h := rfl
@[simp] theorem State.withL1_p160_draws (v : Vector Vec 5) : (s.withL1 v).p160.draws = s.p160.draws := rfl

@[simp] theorem State.withL2_p256 (v : Vector Vec 5) : (s.withL2 v).p256 = s.p256 := rfl
@[simp] theorem State.withL2_mem (v : Vector Vec 5) : (s.withL2 v).mem = s.mem := rfl
@[simp] theorem State.withL2_host (v : Vector Vec 5) : (s.withL2 v).host = s.host := rfl
@[simp] theorem State.withL2_platform (v : Vector Vec 5) : (s.withL2 v).platform = s.platform := rfl
@[simp] theorem State.withL2_turns (v : Vector Vec 5) : (s.withL2 v).turns = s.turns := rfl
@[simp] theorem State.withL2_draws (v : Vector Vec 5) : (s.withL2 v).draws = s.draws := rfl
@[simp] theorem State.withL2_p160_src (v : Vector Vec 5) : (s.withL2 v).p160.src = s.p160.src := rfl
@[simp] theorem State.withL2_p160_dst (v : Vector Vec 5) : (s.withL2 v).p160.dst = s.p160.dst := rfl
@[simp] theorem State.withL2_p160_seq (v : Vector Vec 5) : (s.withL2 v).p160.seq = s.p160.seq := rfl
@[simp] theorem State.withL2_p160_x (v : Vector Vec 5) : (s.withL2 v).p160.x = s.p160.x := rfl
@[simp] theorem State.withL2_p160_l1 (v : Vector Vec 5) : (s.withL2 v).p160.l1 = s.p160.l1 := rfl
@[simp] theorem State.withL2_p160_l2 (v : Vector Vec 5) : (s.withL2 v).p160.l2 = v := rfl
@[simp] theorem State.withL2_p160_h (v : Vector Vec 5) : (s.withL2 v).p160.h = s.p160.h := rfl
@[simp] theorem State.withL2_p160_draws (v : Vector Vec 5) : (s.withL2 v).p160.draws = s.p160.draws := rfl

@[simp] theorem State.withH_p256 (v : Vector Vec 5) : (s.withH v).p256 = s.p256 := rfl
@[simp] theorem State.withH_mem (v : Vector Vec 5) : (s.withH v).mem = s.mem := rfl
@[simp] theorem State.withH_host (v : Vector Vec 5) : (s.withH v).host = s.host := rfl
@[simp] theorem State.withH_platform (v : Vector Vec 5) : (s.withH v).platform = s.platform := rfl
@[simp] theorem State.withH_turns (v : Vector Vec 5) : (s.withH v).turns = s.turns := rfl
@[simp] theorem State.withH_draws (v : Vector Vec 5) : (s.withH v).draws = s.draws := rfl
@[simp] theorem State.withH_p160_src (v : Vector Vec 5) : (s.withH v).p160.src = s.p160.src := rfl
@[simp] theorem State.withH_p160_dst (v : Vector Vec 5) : (s.withH v).p160.dst = s.p160.dst := rfl
@[simp] theorem State.withH_p160_seq (v : Vector Vec 5) : (s.withH v).p160.seq = s.p160.seq := rfl
@[simp] theorem State.withH_p160_x (v : Vector Vec 5) : (s.withH v).p160.x = s.p160.x := rfl
@[simp] theorem State.withH_p160_l1 (v : Vector Vec 5) : (s.withH v).p160.l1 = s.p160.l1 := rfl
@[simp] theorem State.withH_p160_l2 (v : Vector Vec 5) : (s.withH v).p160.l2 = s.p160.l2 := rfl
@[simp] theorem State.withH_p160_h (v : Vector Vec 5) : (s.withH v).p160.h = v := rfl
@[simp] theorem State.withH_p160_draws (v : Vector Vec 5) : (s.withH v).p160.draws = s.p160.draws := rfl

@[simp] theorem State.withSeq_p256_p160 (q : BitVec 11) : (s.withSeq .p256 q).p160 = s.p160 := rfl
@[simp] theorem State.withSeq_p256_mem (q : BitVec 11) : (s.withSeq .p256 q).mem = s.mem := rfl
@[simp] theorem State.withSeq_p256_host (q : BitVec 11) : (s.withSeq .p256 q).host = s.host := rfl
@[simp] theorem State.withSeq_p256_platform (q : BitVec 11) : (s.withSeq .p256 q).platform = s.platform := rfl
@[simp] theorem State.withSeq_p256_turns (q : BitVec 11) : (s.withSeq .p256 q).turns = s.turns := rfl
@[simp] theorem State.withSeq_p256_draws (q : BitVec 11) : (s.withSeq .p256 q).draws = s.draws := rfl
@[simp] theorem State.withSeq_p256_p256_src (q : BitVec 11) : (s.withSeq .p256 q).p256.src = s.p256.src := rfl
@[simp] theorem State.withSeq_p256_p256_dst (q : BitVec 11) : (s.withSeq .p256 q).p256.dst = s.p256.dst := rfl
@[simp] theorem State.withSeq_p256_p256_seq (q : BitVec 11) : (s.withSeq .p256 q).p256.seq = q := rfl
@[simp] theorem State.withSeq_p256_p256_w (q : BitVec 11) : (s.withSeq .p256 q).p256.w = s.p256.w := rfl
@[simp] theorem State.withSeq_p256_p256_s (q : BitVec 11) : (s.withSeq .p256 q).p256.s = s.p256.s := rfl
@[simp] theorem State.withSeq_p256_p256_draws (q : BitVec 11) : (s.withSeq .p256 q).p256.draws = s.p256.draws := rfl

@[simp] theorem State.withSeq_p160_p256 (q : BitVec 11) : (s.withSeq .p160 q).p256 = s.p256 := rfl
@[simp] theorem State.withSeq_p160_mem (q : BitVec 11) : (s.withSeq .p160 q).mem = s.mem := rfl
@[simp] theorem State.withSeq_p160_host (q : BitVec 11) : (s.withSeq .p160 q).host = s.host := rfl
@[simp] theorem State.withSeq_p160_platform (q : BitVec 11) : (s.withSeq .p160 q).platform = s.platform := rfl
@[simp] theorem State.withSeq_p160_turns (q : BitVec 11) : (s.withSeq .p160 q).turns = s.turns := rfl
@[simp] theorem State.withSeq_p160_draws (q : BitVec 11) : (s.withSeq .p160 q).draws = s.draws := rfl
@[simp] theorem State.withSeq_p160_p160_src (q : BitVec 11) : (s.withSeq .p160 q).p160.src = s.p160.src := rfl
@[simp] theorem State.withSeq_p160_p160_dst (q : BitVec 11) : (s.withSeq .p160 q).p160.dst = s.p160.dst := rfl
@[simp] theorem State.withSeq_p160_p160_seq (q : BitVec 11) : (s.withSeq .p160 q).p160.seq = q := rfl
@[simp] theorem State.withSeq_p160_p160_x (q : BitVec 11) : (s.withSeq .p160 q).p160.x = s.p160.x := rfl
@[simp] theorem State.withSeq_p160_p160_l1 (q : BitVec 11) : (s.withSeq .p160 q).p160.l1 = s.p160.l1 := rfl
@[simp] theorem State.withSeq_p160_p160_l2 (q : BitVec 11) : (s.withSeq .p160 q).p160.l2 = s.p160.l2 := rfl
@[simp] theorem State.withSeq_p160_p160_h (q : BitVec 11) : (s.withSeq .p160 q).p160.h = s.p160.h := rfl
@[simp] theorem State.withSeq_p160_p160_draws (q : BitVec 11) : (s.withSeq .p160 q).p160.draws = s.p160.draws := rfl

@[simp] theorem State.withBank_src256_p160 (b : Bank) : (s.withBank .src256 b).p160 = s.p160 := rfl
@[simp] theorem State.withBank_src256_mem (b : Bank) : (s.withBank .src256 b).mem = s.mem := rfl
@[simp] theorem State.withBank_src256_host (b : Bank) : (s.withBank .src256 b).host = s.host := rfl
@[simp] theorem State.withBank_src256_platform (b : Bank) : (s.withBank .src256 b).platform = s.platform := rfl
@[simp] theorem State.withBank_src256_turns (b : Bank) : (s.withBank .src256 b).turns = s.turns := rfl
@[simp] theorem State.withBank_src256_draws (b : Bank) : (s.withBank .src256 b).draws = s.draws := rfl
@[simp] theorem State.withBank_src256_p256_src (b : Bank) : (s.withBank .src256 b).p256.src = b := rfl
@[simp] theorem State.withBank_src256_p256_dst (b : Bank) : (s.withBank .src256 b).p256.dst = s.p256.dst := rfl
@[simp] theorem State.withBank_src256_p256_seq (b : Bank) : (s.withBank .src256 b).p256.seq = s.p256.seq := rfl
@[simp] theorem State.withBank_src256_p256_w (b : Bank) : (s.withBank .src256 b).p256.w = s.p256.w := rfl
@[simp] theorem State.withBank_src256_p256_s (b : Bank) : (s.withBank .src256 b).p256.s = s.p256.s := rfl
@[simp] theorem State.withBank_src256_p256_draws (b : Bank) : (s.withBank .src256 b).p256.draws = s.p256.draws := rfl

@[simp] theorem State.withBank_dst256_p160 (b : Bank) : (s.withBank .dst256 b).p160 = s.p160 := rfl
@[simp] theorem State.withBank_dst256_mem (b : Bank) : (s.withBank .dst256 b).mem = s.mem := rfl
@[simp] theorem State.withBank_dst256_host (b : Bank) : (s.withBank .dst256 b).host = s.host := rfl
@[simp] theorem State.withBank_dst256_platform (b : Bank) : (s.withBank .dst256 b).platform = s.platform := rfl
@[simp] theorem State.withBank_dst256_turns (b : Bank) : (s.withBank .dst256 b).turns = s.turns := rfl
@[simp] theorem State.withBank_dst256_draws (b : Bank) : (s.withBank .dst256 b).draws = s.draws := rfl
@[simp] theorem State.withBank_dst256_p256_src (b : Bank) : (s.withBank .dst256 b).p256.src = s.p256.src := rfl
@[simp] theorem State.withBank_dst256_p256_dst (b : Bank) : (s.withBank .dst256 b).p256.dst = b := rfl
@[simp] theorem State.withBank_dst256_p256_seq (b : Bank) : (s.withBank .dst256 b).p256.seq = s.p256.seq := rfl
@[simp] theorem State.withBank_dst256_p256_w (b : Bank) : (s.withBank .dst256 b).p256.w = s.p256.w := rfl
@[simp] theorem State.withBank_dst256_p256_s (b : Bank) : (s.withBank .dst256 b).p256.s = s.p256.s := rfl
@[simp] theorem State.withBank_dst256_p256_draws (b : Bank) : (s.withBank .dst256 b).p256.draws = s.p256.draws := rfl

@[simp] theorem State.withBank_src160_p256 (b : Bank) : (s.withBank .src160 b).p256 = s.p256 := rfl
@[simp] theorem State.withBank_src160_mem (b : Bank) : (s.withBank .src160 b).mem = s.mem := rfl
@[simp] theorem State.withBank_src160_host (b : Bank) : (s.withBank .src160 b).host = s.host := rfl
@[simp] theorem State.withBank_src160_platform (b : Bank) : (s.withBank .src160 b).platform = s.platform := rfl
@[simp] theorem State.withBank_src160_turns (b : Bank) : (s.withBank .src160 b).turns = s.turns := rfl
@[simp] theorem State.withBank_src160_draws (b : Bank) : (s.withBank .src160 b).draws = s.draws := rfl
@[simp] theorem State.withBank_src160_p160_src (b : Bank) : (s.withBank .src160 b).p160.src = b := rfl
@[simp] theorem State.withBank_src160_p160_dst (b : Bank) : (s.withBank .src160 b).p160.dst = s.p160.dst := rfl
@[simp] theorem State.withBank_src160_p160_seq (b : Bank) : (s.withBank .src160 b).p160.seq = s.p160.seq := rfl
@[simp] theorem State.withBank_src160_p160_x (b : Bank) : (s.withBank .src160 b).p160.x = s.p160.x := rfl
@[simp] theorem State.withBank_src160_p160_l1 (b : Bank) : (s.withBank .src160 b).p160.l1 = s.p160.l1 := rfl
@[simp] theorem State.withBank_src160_p160_l2 (b : Bank) : (s.withBank .src160 b).p160.l2 = s.p160.l2 := rfl
@[simp] theorem State.withBank_src160_p160_h (b : Bank) : (s.withBank .src160 b).p160.h = s.p160.h := rfl
@[simp] theorem State.withBank_src160_p160_draws (b : Bank) : (s.withBank .src160 b).p160.draws = s.p160.draws := rfl

@[simp] theorem State.withBank_dst160_p256 (b : Bank) : (s.withBank .dst160 b).p256 = s.p256 := rfl
@[simp] theorem State.withBank_dst160_mem (b : Bank) : (s.withBank .dst160 b).mem = s.mem := rfl
@[simp] theorem State.withBank_dst160_host (b : Bank) : (s.withBank .dst160 b).host = s.host := rfl
@[simp] theorem State.withBank_dst160_platform (b : Bank) : (s.withBank .dst160 b).platform = s.platform := rfl
@[simp] theorem State.withBank_dst160_turns (b : Bank) : (s.withBank .dst160 b).turns = s.turns := rfl
@[simp] theorem State.withBank_dst160_draws (b : Bank) : (s.withBank .dst160 b).draws = s.draws := rfl
@[simp] theorem State.withBank_dst160_p160_src (b : Bank) : (s.withBank .dst160 b).p160.src = s.p160.src := rfl
@[simp] theorem State.withBank_dst160_p160_dst (b : Bank) : (s.withBank .dst160 b).p160.dst = b := rfl
@[simp] theorem State.withBank_dst160_p160_seq (b : Bank) : (s.withBank .dst160 b).p160.seq = s.p160.seq := rfl
@[simp] theorem State.withBank_dst160_p160_x (b : Bank) : (s.withBank .dst160 b).p160.x = s.p160.x := rfl
@[simp] theorem State.withBank_dst160_p160_l1 (b : Bank) : (s.withBank .dst160 b).p160.l1 = s.p160.l1 := rfl
@[simp] theorem State.withBank_dst160_p160_l2 (b : Bank) : (s.withBank .dst160 b).p160.l2 = s.p160.l2 := rfl
@[simp] theorem State.withBank_dst160_p160_h (b : Bank) : (s.withBank .dst160 b).p160.h = s.p160.h := rfl
@[simp] theorem State.withBank_dst160_p160_draws (b : Bank) : (s.withBank .dst160 b).p160.draws = s.p160.draws := rfl

@[simp] theorem State.openWindow_p256_p256 : (s.openWindow .p256).p256 = s.p256 := rfl
@[simp] theorem State.openWindow_p256_p160 : (s.openWindow .p256).p160 = s.p160 := rfl
@[simp] theorem State.openWindow_p256_mem : (s.openWindow .p256).mem = s.mem := rfl
@[simp] theorem State.openWindow_p256_platform : (s.openWindow .p256).platform = s.platform := rfl
@[simp] theorem State.openWindow_p256_turns : (s.openWindow .p256).turns = s.turns := rfl
@[simp] theorem State.openWindow_p256_draws : (s.openWindow .p256).draws = s.draws := rfl
@[simp] theorem State.openWindow_p256_host_program : (s.openWindow .p256).host.program = s.host.program := rfl
@[simp] theorem State.openWindow_p256_host_rdata : (s.openWindow .p256).host.rdata = s.host.rdata := rfl
@[simp] theorem State.openWindow_p256_host_ldata : (s.openWindow .p256).host.ldata = s.host.ldata := rfl
@[simp] theorem State.openWindow_p256_host_await256 : (s.openWindow .p256).host.await256 = true := rfl
@[simp] theorem State.openWindow_p256_host_await160 : (s.openWindow .p256).host.await160 = s.host.await160 := rfl
@[simp] theorem State.openWindow_p256_host_draws : (s.openWindow .p256).host.draws = s.host.draws := rfl

@[simp] theorem State.openWindow_p160_p256 : (s.openWindow .p160).p256 = s.p256 := rfl
@[simp] theorem State.openWindow_p160_p160 : (s.openWindow .p160).p160 = s.p160 := rfl
@[simp] theorem State.openWindow_p160_mem : (s.openWindow .p160).mem = s.mem := rfl
@[simp] theorem State.openWindow_p160_platform : (s.openWindow .p160).platform = s.platform := rfl
@[simp] theorem State.openWindow_p160_turns : (s.openWindow .p160).turns = s.turns := rfl
@[simp] theorem State.openWindow_p160_draws : (s.openWindow .p160).draws = s.draws := rfl
@[simp] theorem State.openWindow_p160_host_program : (s.openWindow .p160).host.program = s.host.program := rfl
@[simp] theorem State.openWindow_p160_host_rdata : (s.openWindow .p160).host.rdata = s.host.rdata := rfl
@[simp] theorem State.openWindow_p160_host_ldata : (s.openWindow .p160).host.ldata = s.host.ldata := rfl
@[simp] theorem State.openWindow_p160_host_await256 : (s.openWindow .p160).host.await256 = s.host.await256 := rfl
@[simp] theorem State.openWindow_p160_host_await160 : (s.openWindow .p160).host.await160 = true := rfl
@[simp] theorem State.openWindow_p160_host_draws : (s.openWindow .p160).host.draws = s.host.draws := rfl

@[simp] theorem State.pushAction_p256 (a : HostAction) : (s.pushAction a).p256 = s.p256 := rfl
@[simp] theorem State.pushAction_p160 (a : HostAction) : (s.pushAction a).p160 = s.p160 := rfl
@[simp] theorem State.pushAction_mem (a : HostAction) : (s.pushAction a).mem = s.mem := rfl
@[simp] theorem State.pushAction_platform (a : HostAction) : (s.pushAction a).platform = s.platform := rfl
@[simp] theorem State.pushAction_turns (a : HostAction) : (s.pushAction a).turns = s.turns := rfl
@[simp] theorem State.pushAction_draws (a : HostAction) : (s.pushAction a).draws = s.draws := rfl
@[simp] theorem State.pushAction_host_program (a : HostAction) : (s.pushAction a).host.program = a :: s.host.program := rfl
@[simp] theorem State.pushAction_host_rdata (a : HostAction) : (s.pushAction a).host.rdata = s.host.rdata := rfl
@[simp] theorem State.pushAction_host_ldata (a : HostAction) : (s.pushAction a).host.ldata = s.host.ldata := rfl
@[simp] theorem State.pushAction_host_await256 (a : HostAction) : (s.pushAction a).host.await256 = s.host.await256 := rfl
@[simp] theorem State.pushAction_host_await160 (a : HostAction) : (s.pushAction a).host.await160 = s.host.await160 := rfl
@[simp] theorem State.pushAction_host_draws (a : HostAction) : (s.pushAction a).host.draws = s.host.draws := rfl

@[simp] theorem State.scatter_p256_p160 (ws : List LaneWrite) : (s.scatter .p256 ws).p160 = s.p160 := rfl
@[simp] theorem State.scatter_p256_mem (ws : List LaneWrite) : (s.scatter .p256 ws).mem = Memory.storeLanes (Config.freeWinner .p256 s.p256.draws) ws s.mem := rfl
@[simp] theorem State.scatter_p256_host (ws : List LaneWrite) : (s.scatter .p256 ws).host = s.host := rfl
@[simp] theorem State.scatter_p256_platform (ws : List LaneWrite) : (s.scatter .p256 ws).platform = s.platform := rfl
@[simp] theorem State.scatter_p256_turns (ws : List LaneWrite) : (s.scatter .p256 ws).turns = s.turns := rfl
@[simp] theorem State.scatter_p256_draws (ws : List LaneWrite) : (s.scatter .p256 ws).draws = s.draws := rfl
@[simp] theorem State.scatter_p256_p256_src (ws : List LaneWrite) : (s.scatter .p256 ws).p256.src = s.p256.src := rfl
@[simp] theorem State.scatter_p256_p256_dst (ws : List LaneWrite) : (s.scatter .p256 ws).p256.dst = s.p256.dst := rfl
@[simp] theorem State.scatter_p256_p256_seq (ws : List LaneWrite) : (s.scatter .p256 ws).p256.seq = s.p256.seq := rfl
@[simp] theorem State.scatter_p256_p256_w (ws : List LaneWrite) : (s.scatter .p256 ws).p256.w = s.p256.w := rfl
@[simp] theorem State.scatter_p256_p256_s (ws : List LaneWrite) : (s.scatter .p256 ws).p256.s = s.p256.s := rfl
@[simp] theorem State.scatter_p256_p256_draws (ws : List LaneWrite) : (s.scatter .p256 ws).p256.draws = s.p256.draws + 1 := rfl

@[simp] theorem State.scatter_p160_p256 (ws : List LaneWrite) : (s.scatter .p160 ws).p256 = s.p256 := rfl
@[simp] theorem State.scatter_p160_mem (ws : List LaneWrite) : (s.scatter .p160 ws).mem = Memory.storeLanes (Config.freeWinner .p160 s.p160.draws) ws s.mem := rfl
@[simp] theorem State.scatter_p160_host (ws : List LaneWrite) : (s.scatter .p160 ws).host = s.host := rfl
@[simp] theorem State.scatter_p160_platform (ws : List LaneWrite) : (s.scatter .p160 ws).platform = s.platform := rfl
@[simp] theorem State.scatter_p160_turns (ws : List LaneWrite) : (s.scatter .p160 ws).turns = s.turns := rfl
@[simp] theorem State.scatter_p160_draws (ws : List LaneWrite) : (s.scatter .p160 ws).draws = s.draws := rfl
@[simp] theorem State.scatter_p160_p160_src (ws : List LaneWrite) : (s.scatter .p160 ws).p160.src = s.p160.src := rfl
@[simp] theorem State.scatter_p160_p160_dst (ws : List LaneWrite) : (s.scatter .p160 ws).p160.dst = s.p160.dst := rfl
@[simp] theorem State.scatter_p160_p160_seq (ws : List LaneWrite) : (s.scatter .p160 ws).p160.seq = s.p160.seq := rfl
@[simp] theorem State.scatter_p160_p160_x (ws : List LaneWrite) : (s.scatter .p160 ws).p160.x = s.p160.x := rfl
@[simp] theorem State.scatter_p160_p160_l1 (ws : List LaneWrite) : (s.scatter .p160 ws).p160.l1 = s.p160.l1 := rfl
@[simp] theorem State.scatter_p160_p160_l2 (ws : List LaneWrite) : (s.scatter .p160 ws).p160.l2 = s.p160.l2 := rfl
@[simp] theorem State.scatter_p160_p160_h (ws : List LaneWrite) : (s.scatter .p160 ws).p160.h = s.p160.h := rfl
@[simp] theorem State.scatter_p160_p160_draws (ws : List LaneWrite) : (s.scatter .p160 ws).p160.draws = s.p160.draws + 1 := rfl

@[simp] theorem resetCore_p256_src : (resetCore s).p256.src = Bank.reset := rfl
@[simp] theorem resetCore_p256_dst : (resetCore s).p256.dst = Bank.reset := rfl
@[simp] theorem resetCore_p256_seq : (resetCore s).p256.seq = 0#11 := rfl
@[simp] theorem resetCore_p256_draws : (resetCore s).p256.draws = s.p256.draws + 1 := rfl
@[simp] theorem resetCore_p160_src : (resetCore s).p160.src = Bank.reset := rfl
@[simp] theorem resetCore_p160_dst : (resetCore s).p160.dst = Bank.reset := rfl
@[simp] theorem resetCore_p160_seq : (resetCore s).p160.seq = 0#11 := rfl
@[simp] theorem resetCore_p160_draws : (resetCore s).p160.draws = s.p160.draws + 1 := rfl
@[simp] theorem resetCore_mem : (resetCore s).mem = s.memAfterReset := rfl
@[simp] theorem resetCore_host_program : (resetCore s).host.program = s.host.program := rfl
@[simp] theorem resetCore_host_rdata : (resetCore s).host.rdata = s.host.rdata := rfl
@[simp] theorem resetCore_host_ldata : (resetCore s).host.ldata = s.host.ldata := rfl
@[simp] theorem resetCore_host_await256 : (resetCore s).host.await256 = false := rfl
@[simp] theorem resetCore_host_await160 : (resetCore s).host.await160 = false := rfl
@[simp] theorem resetCore_host_draws : (resetCore s).host.draws = s.host.draws := rfl
@[simp] theorem resetCore_platform : (resetCore s).platform = s.platform := rfl
@[simp] theorem resetCore_turns : (resetCore s).turns = s.turns := rfl
@[simp] theorem resetCore_draws : (resetCore s).draws = s.draws := rfl

@[simp] theorem State.advance_eq (p : Pipe) (i : Instr) : s.advance p i = s.withSeq p (seqCode (nextMicro i)) := rfl

@[simp] theorem State.busy_p256 : s.busy .p256 = decide (s.p256.seq ≠ 0#11) := rfl
@[simp] theorem State.busy_p160 : s.busy .p160 = decide (s.p160.seq ≠ 0#11) := rfl
@[simp] theorem State.seqOf_p256 : s.seqOf .p256 = s.p256.seq := rfl
@[simp] theorem State.seqOf_p160 : s.seqOf .p160 = s.p160.seq := rfl
@[simp] theorem State.awaiting_p256 : s.awaiting .p256 = s.host.await256 := rfl
@[simp] theorem State.awaiting_p160 : s.awaiting .p160 = s.host.await160 := rfl
@[simp] theorem State.bank_src256 : s.bank .src256 = s.p256.src := rfl
@[simp] theorem State.bank_dst256 : s.bank .dst256 = s.p256.dst := rfl
@[simp] theorem State.bank_src160 : s.bank .src160 = s.p160.src := rfl
@[simp] theorem State.bank_dst160 : s.bank .dst160 = s.p160.dst := rfl

/-- Putting a bank in and reading it back. -/
@[simp] theorem State.bank_withBank (b : BankId) (v : Bank) : (s.withBank b v).bank b = v := by cases b <;> rfl

/-- Putting one bank in leaves the other three. -/
theorem State.bank_withBank_ne {b c : BankId} (h : c ≠ b) (v : Bank) : (s.withBank b v).bank c = s.bank c := by
  cases b <;> cases c <;> first | rfl | exact absurd rfl h

end Sys2Proof.Machine
end

