-- ==== Sys2Proof/Laws/Vectors.lean ====
section
/-! SUPPORT. The lane of a lifted operation is the operation on the lane (R9); reading and replacing an entry of a file of
vectors. -/

namespace Sys2Proof.Machine

open Sys2Proof

@[simp] theorem bcast_lane (c : Word) (i : Nat) (h : i < 16) : (bcast c)[i] = c := by simp [bcast]

@[simp] theorem lift1_lane (f : Word → Word) (u : Vec) (i : Nat) (h : i < 16) : (lift1 f u)[i] = f u[i] := by
  simp [lift1]

@[simp] theorem lift2_lane (f : Word → Word → Word) (u v : Vec) (i : Nat) (h : i < 16) :
    (lift2 f u v)[i] = f u[i] v[i] := by
  simp [lift2]

@[simp] theorem lift3_lane (f : Word → Word → Word → Word) (u v w : Vec) (i : Nat) (h : i < 16) :
    (lift3 f u v w)[i] = f u[i] v[i] w[i] := by
  simp [lift3]

@[simp] theorem vadd_lane (u v : Vec) (i : Nat) (h : i < 16) : (vadd u v)[i] = u[i] + v[i] := by simp [vadd]

/-- Entry `t` of a file, where it exists. -/
theorem nth_eq {n : Nat} (v : Vector Vec n) {t : Nat} (h : t < n) : nth v t = v[t] := by simp [nth, h]

/-- The replaced entry. -/
theorem nth_setNth_self {n : Nat} (v : Vector Vec n) {t : Nat} (x : Vec) (h : t < n) : nth (setNth v t x) t = x := by
  simp [nth, setNth, h]

/-- Every other entry. -/
theorem nth_setNth_ne {n : Nat} (v : Vector Vec n) {t u : Nat} (x : Vec) (h : u ≠ t) :
    nth (setNth v t x) u = nth v u := by
  unfold nth setNth
  split
  · rw [Vector.getElem_setIfInBounds_ne]
    omega
  · rfl

/-- Two files with the same entries are the same file. -/
theorem file_ext {n : Nat} {v w : Vector Vec n} (h : ∀ t, t < n → nth v t = nth w t) : v = w := by
  apply Vector.ext
  intro t ht
  simpa [nth_eq _ ht] using h t ht

@[simp] theorem nth_ofFn {n : Nat} (f : Fin n → Vec) (t : Nat) (h : t < n) : nth (Vector.ofFn f) t = f ⟨t, h⟩ := by
  simp [nth_eq _ h]

/-- The lane of a loaded vector (R112). -/
@[simp] theorem gather_lane (s : State) (o : ByteOrder) (b : Bank) (off i : Nat) (h : i < 16) :
    (s.gather o b off)[i] = Memory.readWord o s.mem (b.addr ⟨i, h⟩ + off) := by
  simp [State.gather]

/-- The byte of a big-endian word at offset `n` (R51). -/
theorem be32_byte (b0 b1 b2 b3 : Byte) :
    (be32 b0 b1 b2 b3).extractLsb' 24 8 = b0 ∧ (be32 b0 b1 b2 b3).extractLsb' 16 8 = b1 ∧
      (be32 b0 b1 b2 b3).extractLsb' 8 8 = b2 ∧ (be32 b0 b1 b2 b3).extractLsb' 0 8 = b3 := by
  refine ⟨?_, ?_, ?_, ?_⟩ <;> (apply BitVec.eq_of_getLsbD_eq; intro i hi; unfold be32)
  all_goals
    simp only [BitVec.getLsbD_extractLsb', BitVec.getLsbD_append]
    have : i = 0 ∨ i = 1 ∨ i = 2 ∨ i = 3 ∨ i = 4 ∨ i = 5 ∨ i = 6 ∨ i = 7 := by omega
    rcases this with rfl | rfl | rfl | rfl | rfl | rfl | rfl | rfl <;> simp

/-- Loading what a store of the same byte order left gives the word back (R173). -/
theorem wordOfBytes_bytesOfWord (o : ByteOrder) (w : Word) :
    wordOfBytes o ((bytesOfWord o w).getD 0 0) ((bytesOfWord o w).getD 1 0) ((bytesOfWord o w).getD 2 0)
      ((bytesOfWord o w).getD 3 0) = w := by
  cases o <;> (apply BitVec.eq_of_getLsbD_eq; intro i hi) <;>
    simp only [wordOfBytes, bytesOfWord, be32, le32, be32Bytes, le32Bytes, List.getD_cons_zero, List.getD_cons_succ,
      BitVec.getLsbD_append, BitVec.getLsbD_extractLsb'] <;>
    (have h4 : i < 8 ∨ (8 ≤ i ∧ i < 16) ∨ (16 ≤ i ∧ i < 24) ∨ (24 ≤ i ∧ i < 32) := by omega) <;>
    rcases h4 with h | h | h | h <;> simp (disch := omega) <;> grind

/-- A word is stored as four bytes. -/
@[simp] theorem bytesOfWord_length (o : ByteOrder) (w : Word) : (bytesOfWord o w).length = 4 := by cases o <;> rfl

end Sys2Proof.Machine
end

