-- ==== Sys2Proof/Laws/Ops.lean ====
section
/-! SUPPORT. One lemma for each shared operation that says what it can do; the model's checks as the spec's conditions. -/

namespace Sys2Proof.Machine

open Sys2Proof

/-! ## The checks, as conditions -/

theorem validRange_iff {p : Platform} {a n : Nat} : p.validRange a n = true ↔ p.ValidRange a n := by
  simp [Platform.validRange]

theorem lanesValid_iff {s : State} {b : Bank} {off n : Nat} : s.lanesValid b off n = true ↔ s.LanesValid b off n := by
  simp only [State.lanesValid, List.all_eq_true, List.mem_finRange, true_implies, validRange_iff]

/-- A valid range holds every range inside it. -/
theorem ValidRange.sub {p : Platform} {a n b m : Nat} (h : p.ValidRange a n) (h1 : a ≤ b) (h2 : b + m ≤ a + n) :
    p.ValidRange b m := by
  refine ⟨by have := h.1; omega, fun k hk => ?_⟩
  have := h.2 (b - a + k) (by omega)
  rwa [show a + (b - a + k) = b + k by omega] at this

/-- Valid lanes hold every range inside theirs. -/
theorem LanesValid.sub {s : State} {b : Bank} {off n off' m : Nat} (h : s.LanesValid b off n) (h1 : off ≤ off')
    (h2 : off' + m ≤ off + n) : s.LanesValid b off' m :=
  fun i => ValidRange.sub (h i) (by omega) (by omega)

theorem bank_written_iff {b : Bank} : b.toList.all (fun r => r.written) = true ↔ b.Written := by
  rw [List.all_eq_true]
  constructor
  · intro h i
    exact h _ (by simp [Vector.mem_toList_iff])
  · intro h r hr
    obtain ⟨i, hi, rfl⟩ := Vector.getElem_of_mem (Vector.mem_toList_iff.1 hr)
    exact h ⟨i, hi⟩

theorem pointersWritten256_iff {s : State} :
    s.pointersWritten .p256 = true ↔ s.p256.src.Written ∧ s.p256.dst.Written := by
  simp only [State.pointersWritten, Bool.and_eq_true, bank_written_iff]

theorem pointersWritten160_iff {s : State} :
    s.pointersWritten .p160 = true ↔ s.p160.src.Written ∧ s.p160.dst.Written := by
  simp only [State.pointersWritten, Bool.and_eq_true, bank_written_iff]

theorem sourcesAligned256_iff {s : State} : s.sourcesAligned .p256 = true ↔ s.p256.src.Aligned := by
  simp [State.sourcesAligned, Bank.Aligned]

theorem sourcesAligned160_iff {s : State} : s.sourcesAligned .p160 = true ↔ s.p160.src.Aligned := by
  simp [State.sourcesAligned, Bank.Aligned]

theorem laneRanges_valid_iff {s : State} {b : Bank} {off n : Nat} :
    (laneRanges b off n).all (fun r => s.platform.validRange r.1 r.2) = true ↔ s.LanesValid b off n := by
  simp only [laneRanges, List.all_map, List.all_eq_true, List.mem_finRange, true_implies, Function.comp, validRange_iff]

theorem footprintValid256_iff {s : State} :
    s.footprintValid .p256 = true ↔ s.LanesValid s.p256.src 0 64 ∧ s.LanesValid s.p256.dst 0 32 := by
  simp only [State.footprintValid, State.footprint, State.readRanges, State.writeRanges, List.all_append,
    Bool.and_eq_true, laneRanges_valid_iff]

theorem footprintValid160_iff {s : State} :
    s.footprintValid .p160 = true ↔ s.LanesValid s.p160.src 0 64 ∧ s.LanesValid s.p160.dst 0 20 := by
  simp only [State.footprintValid, State.footprint, State.readRanges, State.writeRanges, List.all_append,
    Bool.and_eq_true, laneRanges_valid_iff]
  constructor
  · exact fun h => ⟨h.1, h.2.2⟩
  · exact fun h => ⟨h.1, LanesValid.sub h.1 (by decide) (by decide), h.2⟩

/-- A list of ranges covers an address. -/
abbrev RangesCover (rs : List (Nat × Nat)) (a : Nat) : Prop := ∃ r ∈ rs, r.1 ≤ a ∧ a < r.1 + r.2

theorem rangesCover_laneRanges {b : Bank} {off n a : Nat} :
    RangesCover (laneRanges b off n) a ↔ b.Covers off n a := by
  simp [RangesCover, laneRanges, Bank.Covers]

theorem rangesCover_append {rs qs : List (Nat × Nat)} {a : Nat} :
    RangesCover (rs ++ qs) a ↔ RangesCover rs a ∨ RangesCover qs a := by
  simp [RangesCover, or_and_right, exists_or]

/-- Two lists of ranges meet exactly when they cover a common address. -/
theorem anyMeet_iff {rs qs : List (Nat × Nat)} : anyMeet rs qs = true ↔ ∃ a, RangesCover rs a ∧ RangesCover qs a := by
  simp only [anyMeet, rangesMeet, List.any_eq_true, decide_eq_true_eq]
  constructor
  · rintro ⟨r, hr, q, hq, h1, h2, h3, h4⟩
    exact ⟨max r.1 q.1, ⟨r, hr, by omega, by omega⟩, ⟨q, hq, by omega, by omega⟩⟩
  · rintro ⟨a, ⟨r, hr, h1, h2⟩, ⟨q, hq, h3, h4⟩⟩
    exact ⟨r, hr, q, hq, by omega, by omega, by omega, by omega⟩

theorem writes256_iff {s : State} {a : Nat} : RangesCover (s.writeRanges .p256) a ↔ s.Writes256 a :=
  rangesCover_laneRanges

theorem writes160_iff {s : State} {a : Nat} : RangesCover (s.writeRanges .p160) a ↔ s.Writes160 a := by
  rw [State.writeRanges, rangesCover_append, rangesCover_laneRanges, rangesCover_laneRanges]
  exact Iff.rfl

theorem footprint256_iff {s : State} {a : Nat} :
    RangesCover (s.footprint .p256) a ↔ s.Reads256 a ∨ s.Writes256 a := by
  rw [State.footprint, rangesCover_append, writes256_iff, State.readRanges, rangesCover_laneRanges]

theorem footprint160_iff {s : State} {a : Nat} :
    RangesCover (s.footprint .p160) a ↔ s.Reads160 a ∨ s.Writes160 a := by
  rw [State.footprint, rangesCover_append, writes160_iff, State.readRanges, rangesCover_laneRanges]

/-- The race check finds nothing exactly when no byte written by one command is touched by the other (R62). -/
theorem footprintsConflict_iff {s : State} : s.footprintsConflict = false ↔ s.RaceFree := by
  rw [State.footprintsConflict, Bool.or_eq_false_iff, ← Bool.not_eq_true, ← Bool.not_eq_true, anyMeet_iff, anyMeet_iff]
  simp only [writes256_iff, writes160_iff, footprint256_iff, footprint160_iff, State.RaceFree]
  constructor
  · rintro ⟨h1, h2⟩ a
    exact ⟨fun hw => ⟨fun hr => h1 ⟨a, hw, .inl hr⟩, fun hr => h1 ⟨a, hw, .inr hr⟩⟩,
      fun hw => ⟨fun hr => h2 ⟨a, hw, .inl hr⟩, fun hr => h2 ⟨a, hw, .inr hr⟩⟩⟩
  · intro h
    constructor
    · rintro ⟨a, hw, hr | hr⟩
      · exact ((h a).1 hw).1 hr
      · exact ((h a).1 hw).2 hr
    · rintro ⟨a, hw, hr | hr⟩
      · exact ((h a).2 hw).1 hr
      · exact ((h a).2 hw).2 hr

/-! ## What each shared operation can do -/

/-- What acceptance does when it answers a next state (R180). -/
theorem accept_next {p : Pipe} {s t : State} (h : accept p s = .next t) :
    s.busy p = false ∧ s.pointersWritten p = true ∧ s.sourcesAligned p = true ∧ s.footprintValid p = true ∧
      (s.busy (otherPipe p) = true → s.footprintsConflict = false) ∧ t = s.started p := by
  unfold accept at h
  split at h
  · cases h
  next h1 =>
  split at h
  · cases h
  next h2 =>
  split at h
  · cases h
  next h3 =>
  split at h
  · cases h
  next h4 =>
  split at h
  · cases h
  next h5 =>
  cases h
  exact ⟨by simpa using h1, by simpa using h2, by simpa using h3, by simpa using h4, by simpa using h5, rfl⟩

/-- What a pointer write does when it answers a next state (R187). -/
theorem writePointer_next {b : BankId} {i : BitVec 4} {v : BitVec 64} {s t : State}
    (h : writePointer b i v s = .next t) :
    s.busy b.pipe = false ∧ s.awaiting b.pipe = false ∧
      t = s.withBank b ((s.bank b).set i.toNat { value := v, written := true } i.isLt) := by
  unfold writePointer at h
  split at h
  · cases h
  next h1 =>
  split at h
  · cases h
  next h2 =>
  cases h
  exact ⟨by simpa using h1, by simpa using h2, rfl⟩

/-- A pointer read always answers a next state that differs in the host only (R187). -/
theorem readPointer_next (b : BankId) (i : BitVec 4) (s : State) :
    ∃ v d, readPointer b i s = .next { s with host := { s.host with rdata := v, draws := d } } := by
  unfold readPointer
  dsimp only
  split
  · exact ⟨_, _, rfl⟩
  · exact ⟨_, _, rfl⟩

/-- What a write to CMD is (R180). -/
theorem writeCmd_cases (w : BitVec 32) (s : State) :
    writeCmd w s = accept .p256 s ∨ writeCmd w s = accept .p160 s ∨ writeCmd w s = .refused .reservedCommand := by
  unfold writeCmd decodeC
  split <;> rename_i h
  · exact .inl rfl
  · exact .inr (.inl rfl)
  · exact .inr (.inr rfl)
  · split at h
    · cases h
    · split at h
      · cases h
      · cases h
        exact .inr (.inr rfl)

/-- What a host store does when it answers a next state (R57). -/
theorem hostStore_next {a : Nat} {bs : List Byte} {s t : State} (h : hostStore a bs s = .next t) :
    s.platform.ValidRange a bs.length ∧ s.racesWith .p256 (s.footprint .p256) (a, bs.length) = false ∧
      s.racesWith .p160 (s.footprint .p160) (a, bs.length) = false ∧
      t = { s with mem := Memory.writeBytes s.mem a bs } := by
  unfold hostStore at h
  split at h
  · cases h
  next h1 =>
  split at h
  · cases h
  next h2 =>
  split at h
  · cases h
  next h3 =>
  cases h
  exact ⟨validRange_iff.1 (by simpa using h1), by simpa using h2, by simpa using h3, rfl⟩

/-- What a host load does when it answers a next state (R57). -/
theorem hostLoad_next {a n : Nat} {s t : State} (h : hostLoad a n s = .next t) :
    t = s.withLdata (Memory.readBytes s.mem a n) := by
  unfold hostLoad at h
  split at h
  · cases h
  split at h
  · cases h
  split at h
  · cases h
  cases h
  rfl

/-- When the host's access does not race (R57 item 3). -/
theorem racesWith_false_iff {s : State} {p : Pipe} {rs : List (Nat × Nat)} {a n : Nat} :
    s.racesWith p rs (a, n) = false ↔ (s.awaiting p = true → ∀ b, a ≤ b → b < a + n → ¬RangesCover rs b) := by
  rw [State.racesWith, Bool.and_eq_false_imp]
  refine imp_congr_right fun _ => ?_
  rw [← Bool.not_eq_true, anyMeet_iff]
  constructor
  · exact fun h b h1 h2 hc => h ⟨b, ⟨(a, n), by simp, h1, h2⟩, hc⟩
  · rintro h ⟨b, ⟨r, hr, h1, h2⟩, hc⟩
    obtain rfl : r = (a, n) := by simpa using hr
    exact h b h1 h2 hc

/-! ## The lanes' writes -/

theorem mem_laneWrites {b : Bank} {off : Nat} {bytes : Fin 16 → List Byte} {w : LaneWrite} :
    w ∈ laneWrites b off bytes ↔ ∃ i : Fin 16, w = (b.addr i + off, bytes i) := by
  simp [laneWrites, eq_comm]

/-- Where lanes that write `n` bytes each write. -/
theorem mem_writtenAddrs_laneWrites {b : Bank} {off n a : Nat} {bytes : Fin 16 → List Byte}
    (hn : ∀ i, (bytes i).length = n) : a ∈ writtenAddrs (laneWrites b off bytes) ↔ b.Covers off n a := by
  rw [mem_writtenAddrs]
  constructor
  · rintro ⟨w, hw, h1, h2⟩
    obtain ⟨i, rfl⟩ := mem_laneWrites.1 hw
    exact ⟨i, h1, by simpa [hn] using h2⟩
  · rintro ⟨i, h1, h2⟩
    exact ⟨_, mem_laneWrites.2 ⟨i, rfl⟩, h1, by simpa [hn] using h2⟩

/-- What stands at an address that some lane writes is a byte of a lane that writes it (R60). -/
theorem settled_laneWrites {b : Bank} {off n a : Nat} {bytes : Fin 16 → List Byte} (hn : ∀ i, (bytes i).length = n)
    (pick : Nat → Nat) (h : b.Covers off n a) :
    ∃ i : Fin 16, ∃ k, k < n ∧ a = b.addr i + off + k ∧ settled pick (laneWrites b off bytes) a = (bytes i).getD k 0 := by
  obtain ⟨w, hw, h1, h2⟩ := mem_competing.1 (settled_mem pick ((mem_writtenAddrs_laneWrites hn).2 h))
  obtain ⟨i, rfl⟩ := mem_laneWrites.1 hw
  obtain ⟨hlt, -⟩ := List.getElem?_eq_some_iff.1 h2
  refine ⟨i, a - (b.addr i + off), ?_, ?_, ?_⟩
  · rw [← hn i]; exact hlt
  · exact (Nat.add_sub_cancel' h1).symm
  · rw [List.getD_eq_getElem?_getD, h2]; rfl

/-- Where the lanes that write an address agree, that byte stands (R60). -/
theorem settled_laneWrites_agree {b : Bank} {off n : Nat} {bytes : Fin 16 → List Byte}
    (hn : ∀ i, (bytes i).length = n) (pick : Nat → Nat) (i : Fin 16) {k : Nat} (hk : k < n)
    (h : ∀ (j : Fin 16) (l : Nat), l < n → b.addr j + l = b.addr i + k → (bytes j).getD l 0 = (bytes i).getD k 0) :
    settled pick (laneWrites b off bytes) (b.addr i + off + k) = (bytes i).getD k 0 := by
  obtain ⟨j, l, hl, he, hs⟩ :=
    settled_laneWrites (b := b) (off := off) (n := n) (a := b.addr i + off + k) hn pick ⟨i, by omega, by omega⟩
  rw [hs]
  exact h j l hl (by omega)

/-! ## The word operators of R8, as Lean's own -/

/-- The addresses a reset forgets: ordinary memory, in the write footprint, of a busy pipeline. -/
theorem mem_abandonedAddrs {s : State} {p : Pipe} {a : Nat} : a ∈ s.abandonedAddrs p ↔
    s.busy p = true ∧ RangesCover (s.writeRanges p) a ∧ a < 2 ^ 64 ∧ s.platform.validAddr a = true := by
  unfold State.abandonedAddrs
  split
  next h =>
    simp only [List.mem_filter, List.mem_flatMap, List.mem_map, List.mem_range, Bool.and_eq_true, decide_eq_true_eq, h,
      true_and]
    refine and_congr_left fun _ => ⟨?_, ?_⟩
    · rintro ⟨r, hr, k, hk, rfl⟩
      exact ⟨r, hr, by omega, by omega⟩
    · rintro ⟨r, hr, h1, h2⟩
      exact ⟨r, hr, a - r.1, by omega, by omega⟩
  next h => simp [h]

/-- A reset keeps the canonical form of memory. -/
theorem wf_memAfterReset {s : State} (hm : Memory.wf s.mem) : Memory.wf s.memAfterReset :=
  Memory.wf_fill (Memory.wf_fill hm _ fun _ h => (mem_abandonedAddrs.1 h).2.2.1) _ fun _ h =>
    (mem_abandonedAddrs.1 h).2.2.1

/-- A reset leaves every byte that is in no abandoned command's write footprint. -/
theorem read_memAfterReset {s : State} (hm : Memory.wf s.mem) {a : Nat}
    (h256 : s.busy .p256 = true → ¬RangesCover (s.writeRanges .p256) a)
    (h160 : s.busy .p160 = true → ¬RangesCover (s.writeRanges .p160) a) :
    Memory.read s.memAfterReset a = Memory.read s.mem a := by
  rw [State.memAfterReset, Memory.read_fill (Memory.pairwise_fill hm.1 _ _), Memory.read_fill hm.1,
    if_neg fun h => h160 (mem_abandonedAddrs.1 h).1 (mem_abandonedAddrs.1 h).2.1,
    if_neg fun h => h256 (mem_abandonedAddrs.1 h).1 (mem_abandonedAddrs.1 h).2.1]

/-- With both pipelines idle, a reset leaves memory as it is. -/
theorem memAfterReset_idle {s : State} (h256 : s.busy .p256 = false) (h160 : s.busy .p160 = false) :
    s.memAfterReset = s.mem := by simp [State.memAfterReset, State.abandonedAddrs, h256, h160, Memory.fill]

theorem rotr_eq_rotateRight (x : Word) {n : Nat} (h : n < 32) : rotr x n = x.rotateRight n := by
  simp [rotr, shr, BitVec.rotateRight, BitVec.rotateRightAux, Nat.mod_eq_of_lt h]

theorem rotl_eq_rotateLeft (x : Word) {n : Nat} (h : n < 32) : rotl x n = x.rotateLeft n := by
  simp [rotl, shr, BitVec.rotateLeft, BitVec.rotateLeftAux, Nat.mod_eq_of_lt h]

end Sys2Proof.Machine
end

