-- ==== Sys2Proof/Laws/Meanings.lean ====
section
/-! SUPPORT. What each meaning that can stop has done when it answers a next state, and what a step of the system is. -/

namespace Sys2Proof.Machine

open Sys2Proof

/-- `LDW.BE j` (R110). -/
theorem execLdwBE_next {j : BitVec 7} {s t : State} (h : execLdwBE j s = .next t) :
    j.toNat ≤ 15 ∧ s.LanesValid s.p256.src (4 * j.toNat) 4 ∧ t = (s.withW j.toNat (s.gather .big s.p256.src (4 * j.toNat))).advance .p256 (.ldwBE j) := by
  unfold execLdwBE at h
  split at h
  · cases h
  next h0 =>
  split at h
  · cases h
  next h1 =>
  cases h
  exact ⟨by omega, lanesValid_iff.1 (by simpa using h1), rfl⟩

/-- `LDW.LE j` (R111). -/
theorem execLdwLE_next {j : BitVec 7} {s t : State} (h : execLdwLE j s = .next t) :
    j.toNat ≤ 15 ∧ s.LanesValid s.p160.src (4 * j.toNat) 4 ∧ t = (s.withX j.toNat (s.gather .little s.p160.src (4 * j.toNat))).advance .p160 (.ldwLE j) := by
  unfold execLdwLE at h
  split at h
  · cases h
  next h0 =>
  split at h
  · cases h
  next h1 =>
  cases h
  exact ⟨by omega, lanesValid_iff.1 (by simpa using h1), rfl⟩

/-- `RND256 t` (R126). -/
theorem execRnd256_next {k : BitVec 7} {s t : State} (h : execRnd256 k s = .next t) :
    k.toNat ≤ 63 ∧ t = (s.withS (round256 (k256 k.toNat) (nth s.p256.w k.toNat) s.p256.s)).advance .p256 (.rnd256 k) := by
  unfold execRnd256 at h
  split at h
  · cases h
  next h0 =>
  cases h
  exact ⟨by omega, rfl⟩

/-- `EXP256 t` (R125). -/
theorem execExp256_next {k : BitVec 7} {s t : State} (h : execExp256 k s = .next t) :
    16 ≤ k.toNat ∧ k.toNat ≤ 63 ∧ t = (s.withW k.toNat (expand256 (nth s.p256.w (k.toNat - 2)) (nth s.p256.w (k.toNat - 7)) (nth s.p256.w (k.toNat - 15)) (nth s.p256.w (k.toNat - 16)))).advance .p256 (.exp256 k) := by
  unfold execExp256 at h
  split at h
  · cases h
  next h0 =>
  cases h
  exact ⟨by omega, by omega, rfl⟩

/-- `STW.BE k` (R170). -/
theorem execStwBE_next {k : BitVec 7} {s t : State} (h : execStwBE k s = .next t) :
    k.toNat ≤ 7 ∧ s.LanesValid s.p256.dst (4 * k.toNat) 4 ∧ t = (s.scatter .p256 (wordWrites .big s.p256.dst (4 * k.toNat) (nth s.p256.s k.toNat))).advance .p256 (.stwBE k) := by
  unfold execStwBE at h
  split at h
  · cases h
  next h0 =>
  split at h
  · cases h
  next h1 =>
  cases h
  exact ⟨by omega, lanesValid_iff.1 (by simpa using h1), rfl⟩

/-- `STW.LE k` (R171). -/
theorem execStwLE_next {k : BitVec 7} {s t : State} (h : execStwLE k s = .next t) :
    k.toNat ≤ 4 ∧ s.LanesValid s.p160.dst (4 * k.toNat) 4 ∧ t = (s.scatter .p160 (wordWrites .little s.p160.dst (4 * k.toNat) (nth s.p160.h k.toNat))).advance .p160 (.stwLE k) := by
  unfold execStwLE at h
  split at h
  · cases h
  next h0 =>
  split at h
  · cases h
  next h1 =>
  cases h
  exact ⟨by omega, lanesValid_iff.1 (by simpa using h1), rfl⟩

/-- `PAD160` (R146). -/
theorem execPad160_next  {s t : State} (h : execPad160 s = .next t) :
    s.LanesValid s.p160.src 32 32 ∧ t = (s.scatter .p160 (laneWrites s.p160.src 32 fun _ => padTail)).advance .p160 .pad160 := by
  unfold execPad160 at h
  split at h
  · cases h
  next h0 =>
  cases h
  exact ⟨lanesValid_iff.1 (by rw [Bool.not_eq_true', Bool.not_eq_false] at h0; exact h0), rfl⟩

/-- `RND160.L1 j` (R148). -/
theorem execRnd160L1_next {j : BitVec 7} {s t : State} (h : execRnd160L1 j s = .next t) :
    j.toNat ≤ 79 ∧ t = (s.withL1 (round160 (fLine1 (j.toNat / 16)) (nth s.p160.x (rl1 j.toNat)) (kl1 (j.toNat / 16)) (sl1 j.toNat) s.p160.l1)).advance .p160 (.rnd160L1 j) := by
  unfold execRnd160L1 at h
  split at h
  · cases h
  next h0 =>
  cases h
  exact ⟨by omega, rfl⟩

/-- `RND160.L2 j` (R149). -/
theorem execRnd160L2_next {j : BitVec 7} {s t : State} (h : execRnd160L2 j s = .next t) :
    j.toNat ≤ 79 ∧ t = (s.withL2 (round160 (fLine2 (j.toNat / 16)) (nth s.p160.x (rl2 j.toNat)) (kl2 (j.toNat / 16)) (sl2 j.toNat) s.p160.l2)).advance .p160 (.rnd160L2 j) := by
  unfold execRnd160L2 at h
  split at h
  · cases h
  next h0 =>
  cases h
  exact ⟨by omega, rfl⟩

/-- Whose turn it is changes nothing of the state but the turns and the count of free choices. -/
theorem nextTurn_state (s : State) : ∃ ts d, (nextTurn s).2 = { s with turns := ts, draws := d } := by
  unfold nextTurn
  split
  · next a rest h => exact ⟨rest, s.draws, rfl⟩
  · next h =>
    split
    · exact ⟨s.turns, s.draws, rfl⟩
    · exact ⟨s.turns, s.draws, rfl⟩
    · exact ⟨s.turns, s.draws + 1, rfl⟩

/-- A step is one agent's turn. -/
theorem step_eq_turn (s : State) : ∃ a ts d, step s = agentTurn a { s with turns := ts, draws := d } := by
  obtain ⟨ts, d, h⟩ := nextTurn_state s
  exact ⟨(nextTurn s).1, ts, d, by rw [step, systemStep, h]⟩

/-- What a host turn is, by the pending action. -/
theorem hostTurn_eq (s : State) :
    hostTurn s = .next s ∨
      ∃ a rest, s.host.program = a :: rest ∧ hostTurn s = hostAct a { s with host := { s.host with program := rest } } := by
  unfold hostTurn
  split
  · exact .inl rfl
  · next a rest h => exact .inr ⟨a, rest, h, rfl⟩

/-- A poll always answers a next state: the STATUS read, and the wait again while the pipeline is busy (R92). -/
theorem poll_eq (p : Pipe) (again : HostAction) (s : State) :
    ∃ t, readStatus s = .next t ∧ poll p again s = .next (if s.busy p then t.pushAction again else t) := by
  refine ⟨_, rfl, ?_⟩
  have h : exec .rd32Status s = readStatus s := rfl
  unfold poll
  rw [h]
  unfold readStatus
  dsimp only
  split <;> rfl

end Sys2Proof.Machine
end

