-- ==== Sys2Proof/Laws/PerInstr.lean ====
section
/-! SUPPORT. The statement made for every instruction, one lemma per constructor: the micro-operation after a well-formed one
is well-formed (44_commands_and_sequencer.md R183, R184: the positions visited are legal ones). -/

namespace Sys2Proof.Laws.NextWellFormed

open Sys2Proof Sys2Proof.Machine

/-- The next position of a well-formed instruction is well-formed. -/
def Statement (i : Instr) : Prop := i.WF → (nextMicro i).WF

theorem bt256 : Statement .bt256 := by intro _; rfl

theorem bt160 : Statement .bt160 := by intro _; rfl

theorem idle : Statement .idle := by intro _; rfl

theorem ldwBE (j : BitVec 7) : Statement (.ldwBE j) := by
  intro h
  have e : nextMicro (.ldwBE j) = if j.toNat < 15 then .ldwBE (j + 1) else .init256 := rfl
  rw [e]
  split
  · next hlt =>
    have h1 : (j + 1).toNat = j.toNat + 1 := by
      rw [BitVec.toNat_add, show (1 : BitVec 7).toNat = 1 from rfl, Nat.mod_eq_of_lt (by omega)]
    simp only [Instr.WF, Instr.wellFormed, h1, decide_eq_true_eq] at h ⊢
    omega
  · decide

theorem init256 : Statement .init256 := by intro _; rfl

theorem exp256 (t : BitVec 7) : Statement (.exp256 t) := by
  intro h
  have e : nextMicro (.exp256 t) = if t.toNat < 63 then .exp256 (t + 1) else .rnd256 0#7 := rfl
  rw [e]
  split
  · next hlt =>
    have h1 : (t + 1).toNat = t.toNat + 1 := by
      rw [BitVec.toNat_add, show (1 : BitVec 7).toNat = 1 from rfl, Nat.mod_eq_of_lt (by omega)]
    simp only [Instr.WF, Instr.wellFormed, h1, decide_eq_true_eq] at h ⊢
    omega
  · decide

theorem rnd256 (t : BitVec 7) : Statement (.rnd256 t) := by
  intro h
  have e : nextMicro (.rnd256 t) = if t.toNat < 63 then .rnd256 (t + 1) else .fin256 := rfl
  rw [e]
  split
  · next hlt =>
    have h1 : (t + 1).toNat = t.toNat + 1 := by
      rw [BitVec.toNat_add, show (1 : BitVec 7).toNat = 1 from rfl, Nat.mod_eq_of_lt (by omega)]
    simp only [Instr.WF, Instr.wellFormed, h1, decide_eq_true_eq] at h ⊢
    omega
  · decide

theorem fin256 : Statement .fin256 := by intro _; rfl

theorem stwBE (k : BitVec 7) : Statement (.stwBE k) := by
  intro h
  have e : nextMicro (.stwBE k) = if k.toNat < 7 then .stwBE (k + 1) else .idle := rfl
  rw [e]
  split
  · next hlt =>
    have h1 : (k + 1).toNat = k.toNat + 1 := by
      rw [BitVec.toNat_add, show (1 : BitVec 7).toNat = 1 from rfl, Nat.mod_eq_of_lt (by omega)]
    simp only [Instr.WF, Instr.wellFormed, h1, decide_eq_true_eq] at h ⊢
    omega
  · decide

theorem pad160 : Statement .pad160 := by intro _; rfl

theorem ldwLE (j : BitVec 7) : Statement (.ldwLE j) := by
  intro h
  have e : nextMicro (.ldwLE j) = if j.toNat < 15 then .ldwLE (j + 1) else .init160 := rfl
  rw [e]
  split
  · next hlt =>
    have h1 : (j + 1).toNat = j.toNat + 1 := by
      rw [BitVec.toNat_add, show (1 : BitVec 7).toNat = 1 from rfl, Nat.mod_eq_of_lt (by omega)]
    simp only [Instr.WF, Instr.wellFormed, h1, decide_eq_true_eq] at h ⊢
    omega
  · decide

theorem init160 : Statement .init160 := by intro _; rfl

theorem rnd160L1 (j : BitVec 7) : Statement (.rnd160L1 j) := by
  intro h
  have e : nextMicro (.rnd160L1 j) = if j.toNat < 79 then .rnd160L1 (j + 1) else .rnd160L2 0#7 := rfl
  rw [e]
  split
  · next hlt =>
    have h1 : (j + 1).toNat = j.toNat + 1 := by
      rw [BitVec.toNat_add, show (1 : BitVec 7).toNat = 1 from rfl, Nat.mod_eq_of_lt (by omega)]
    simp only [Instr.WF, Instr.wellFormed, h1, decide_eq_true_eq] at h ⊢
    omega
  · decide

theorem rnd160L2 (j : BitVec 7) : Statement (.rnd160L2 j) := by
  intro h
  have e : nextMicro (.rnd160L2 j) = if j.toNat < 79 then .rnd160L2 (j + 1) else .comb160 := rfl
  rw [e]
  split
  · next hlt =>
    have h1 : (j + 1).toNat = j.toNat + 1 := by
      rw [BitVec.toNat_add, show (1 : BitVec 7).toNat = 1 from rfl, Nat.mod_eq_of_lt (by omega)]
    simp only [Instr.WF, Instr.wellFormed, h1, decide_eq_true_eq] at h ⊢
    omega
  · decide

theorem comb160 : Statement .comb160 := by intro _; rfl

theorem stwLE (k : BitVec 7) : Statement (.stwLE k) := by
  intro h
  have e : nextMicro (.stwLE k) = if k.toNat < 4 then .stwLE (k + 1) else .idle := rfl
  rw [e]
  split
  · next hlt =>
    have h1 : (k + 1).toNat = k.toNat + 1 := by
      rw [BitVec.toNat_add, show (1 : BitVec 7).toNat = 1 from rfl, Nat.mod_eq_of_lt (by omega)]
    simp only [Instr.WF, Instr.wellFormed, h1, decide_eq_true_eq] at h ⊢
    omega
  · decide

theorem wr64P256Src (i : BitVec 4) (v : BitVec 64) : Statement (.wr64P256Src i v) := by intro _; rfl

theorem wr64P256Dst (i : BitVec 4) (v : BitVec 64) : Statement (.wr64P256Dst i v) := by intro _; rfl

theorem wr64P160Src (i : BitVec 4) (v : BitVec 64) : Statement (.wr64P160Src i v) := by intro _; rfl

theorem wr64P160Dst (i : BitVec 4) (v : BitVec 64) : Statement (.wr64P160Dst i v) := by intro _; rfl

theorem rd64P256Src (i : BitVec 4) : Statement (.rd64P256Src i) := by intro _; rfl

theorem rd64P256Dst (i : BitVec 4) : Statement (.rd64P256Dst i) := by intro _; rfl

theorem rd64P160Src (i : BitVec 4) : Statement (.rd64P160Src i) := by intro _; rfl

theorem rd64P160Dst (i : BitVec 4) : Statement (.rd64P160Dst i) := by intro _; rfl

theorem wr32Cmd (w : BitVec 32) : Statement (.wr32Cmd w) := by intro _; rfl

theorem rd32Cmd : Statement .rd32Cmd := by intro _; rfl

theorem rd32Status : Statement .rd32Status := by intro _; rfl

theorem wr32Status (w : BitVec 32) : Statement (.wr32Status w) := by intro _; rfl

end Sys2Proof.Laws.NextWellFormed
end

