-- ==== Sys2Proof/Tests/Slice0.lean ====
section
/-! SUPPORT. Tests of the model: expected values are the spec's (95_test_vectors.md, 96_test_traces.md, the tables of
30_encoding.md), never the model's own answers; and, for every statement with hypotheses, a witness that meets them. -/

namespace Sys2Proof.Tests

open Sys2Proof Sys2Proof.Machine

-- One theorem at a time: checked in parallel, they would ask for more threads than the memory limit has room for.
set_option Elab.async false

/-! ## WellFormed: one ill-formed term for each check, beside the last legal one -/

theorem test_wf_ldwBE : (Instr.ldwBE 16).wellFormed = false ∧ (Instr.ldwBE 15).wellFormed = true := by decide
theorem test_wf_exp256_low : (Instr.exp256 15).wellFormed = false ∧ (Instr.exp256 16).wellFormed = true := by decide
theorem test_wf_exp256_high : (Instr.exp256 64).wellFormed = false ∧ (Instr.exp256 63).wellFormed = true := by decide
theorem test_wf_rnd256 : (Instr.rnd256 64).wellFormed = false ∧ (Instr.rnd256 63).wellFormed = true := by decide
theorem test_wf_stwBE : (Instr.stwBE 8).wellFormed = false ∧ (Instr.stwBE 7).wellFormed = true := by decide
theorem test_wf_ldwLE : (Instr.ldwLE 16).wellFormed = false ∧ (Instr.ldwLE 15).wellFormed = true := by decide
theorem test_wf_rnd160L1 : (Instr.rnd160L1 80).wellFormed = false ∧ (Instr.rnd160L1 79).wellFormed = true := by decide
theorem test_wf_rnd160L2 : (Instr.rnd160L2 80).wellFormed = false ∧ (Instr.rnd160L2 79).wellFormed = true := by decide
theorem test_wf_stwLE : (Instr.stwLE 5).wellFormed = false ∧ (Instr.stwLE 4).wellFormed = true := by decide

/-! ## Decoding: words written out from R82, R84, R85 and R90 (95_test_vectors.md section 2.5) -/

/-- What a decoding gives, comparable. -/
def readAs (c : Code) : Option Instr := accepted (decode c)

theorem test_decode_bt256 : readAs (.cmd 0x00000001#32) = some .bt256 := by decide
theorem test_decode_bt160 : readAs (.cmd 0x00000002#32) = some .bt160 := by decide
theorem test_decode_idle : readAs (.seq 0x000#11) = some .idle := by decide
theorem test_decode_ldwBE : readAs (.seq 0x08F#11) = some (.ldwBE 15) := by decide
theorem test_decode_init256 : readAs (.seq 0x100#11) = some .init256 := by decide
theorem test_decode_exp256 : readAs (.seq 0x190#11) = some (.exp256 16) := by decide
/-- Bits 10:7 are 0100 (phase 4), bits 6:0 are 0010001 (17). -/
theorem test_decode_rnd256 : readAs (.seq 0b01000010001#11) = some (.rnd256 17) := by decide
theorem test_decode_fin256 : readAs (.seq 0x280#11) = some .fin256 := by decide
theorem test_decode_stwBE : readAs (.seq 0x307#11) = some (.stwBE 7) := by decide
theorem test_decode_pad160 : readAs (.seq 0x400#11) = some .pad160 := by decide
theorem test_decode_ldwLE : readAs (.seq 0x48F#11) = some (.ldwLE 15) := by decide
theorem test_decode_init160 : readAs (.seq 0x500#11) = some .init160 := by decide
theorem test_decode_rnd160L1 : readAs (.seq 0x5CF#11) = some (.rnd160L1 79) := by decide
theorem test_decode_rnd160L2 : readAs (.seq 0x64F#11) = some (.rnd160L2 79) := by decide
theorem test_decode_comb160 : readAs (.seq 0x680#11) = some .comb160 := by decide
theorem test_decode_stwLE : readAs (.seq 0x704#11) = some (.stwLE 4) := by decide
/-- P256.SRC[15] is at offset 0x078. -/
theorem test_decode_wr64P256Src :
    readAs (.bus ⟨.write, .w64, 0x078#64, 0x103C0#64⟩) = some (.wr64P256Src 15 0x103C0) := by decide
/-- P256.DST[7] is at offset 0x0B8. -/
theorem test_decode_wr64P256Dst :
    readAs (.bus ⟨.write, .w64, 0x0B8#64, 0x200E0#64⟩) = some (.wr64P256Dst 7 0x200E0) := by decide
/-- P160.SRC[9] is at offset 0x148. -/
theorem test_decode_wr64P160Src :
    readAs (.bus ⟨.write, .w64, 0x148#64, 0x30240#64⟩) = some (.wr64P160Src 9 0x30240) := by decide
/-- P160.DST[15] is at offset 0x1F8. -/
theorem test_decode_wr64P160Dst :
    readAs (.bus ⟨.write, .w64, 0x1F8#64, 0x401E0#64⟩) = some (.wr64P160Dst 15 0x401E0) := by decide
theorem test_decode_rd64P256Src : readAs (.bus ⟨.read, .w64, 0x000#64, 0#64⟩) = some (.rd64P256Src 0) := by decide
theorem test_decode_rd64P256Dst : readAs (.bus ⟨.read, .w64, 0x080#64, 0#64⟩) = some (.rd64P256Dst 0) := by decide
theorem test_decode_rd64P160Src : readAs (.bus ⟨.read, .w64, 0x100#64, 0#64⟩) = some (.rd64P160Src 0) := by decide
/-- P160.DST[2] is at offset 0x190. -/
theorem test_decode_rd64P160Dst : readAs (.bus ⟨.read, .w64, 0x190#64, 0#64⟩) = some (.rd64P160Dst 2) := by decide
theorem test_decode_wr32Cmd : readAs (.bus ⟨.write, .w32, 0x200#64, 2#64⟩) = some (.wr32Cmd 2) := by decide
theorem test_decode_rd32Cmd : readAs (.bus ⟨.read, .w32, 0x200#64, 0#64⟩) = some .rd32Cmd := by decide
theorem test_decode_rd32Status : readAs (.bus ⟨.read, .w32, 0x208#64, 0#64⟩) = some .rd32Status := by decide
theorem test_decode_wr32Status : readAs (.bus ⟨.write, .w32, 0x208#64, 3#64⟩) = some (.wr32Status 3) := by decide

/-- 95_test_vectors.md section 2.5: 00000000, 00000003 and 00000101 are reserved command words. -/
theorem test_reserved_commands :
    readAs (.cmd 0#32) = none ∧ readAs (.cmd 3#32) = none ∧ readAs (.cmd 0x101#32) = none := by decide
/-- 95_test_vectors.md section 2.5: positions 090, 180, 285 and the phases 7 and f. -/
theorem test_reserved_positions :
    readAs (.seq 0x090#11) = none ∧ readAs (.seq 0x180#11) = none ∧ readAs (.seq 0x285#11) = none ∧
      readAs (.seq 0x380#11) = none ∧ readAs (.seq 0x7FF#11) = none := by decide
/-- 95_test_vectors.md section 5.4: a 32-bit write to offset 0x000, any access to 0x204, and an unaligned access. -/
theorem test_bad_register_accesses :
    readAs (.bus ⟨.write, .w32, 0x000#64, 0#64⟩) = none ∧ readAs (.bus ⟨.read, .w32, 0x204#64, 0#64⟩) = none ∧
      readAs (.bus ⟨.read, .w64, 0x204#64, 0#64⟩) = none ∧ readAs (.bus ⟨.read, .w64, 0x004#64, 0#64⟩) = none ∧
      readAs (.bus ⟨.write, .w64, 0x200#64, 1#64⟩) = none := by decide
/-- A position of one pipeline in the other's sequencer is reserved (R84, R86). -/
theorem test_position_of_the_other_pipeline :
    accepted (decodeSeq .p256 0x400#11) = none ∧ accepted (decodeSeq .p160 0x080#11) = none ∧
      accepted (decodeSeq .p160 0x400#11) = some .pad160 := by decide
theorem test_decodeTableWord :
    decodeTableWord 32 2 = some .bt160 ∧ decodeTableWord 16 0x211 = some (.rnd256 17) ∧ decodeTableWord 16 0x180 = none ∧
      decodeTableWord 16 0x800 = none := by decide

/-! ## Word functions (95_test_vectors.md section 2.1) -/

theorem test_sig0 : sig0 0x12345678 = 0xe7fce6ee ∧ sig0 0x80000000 = 0x11002000 := by decide
theorem test_sig1 : sig1 0x12345678 = 0xa1f78649 ∧ sig1 0x61626380 = 0x7da86405 := by decide
theorem test_bigSig0 : bigSig0 0x12345678 = 0x66146474 ∧ bigSig0 0x00000001 = 0x40080400 := by decide
theorem test_bigSig1 : bigSig1 0x12345678 = 0x3561abda ∧ bigSig1 0x00000018 = 0x63000c00 := by decide
theorem test_ch_maj :
    ch 0x510e527f 0x9b05688c 0x1f83d9ab = 0x1f85c98c ∧ maj 0x510e527f 0x9b05688c 0x1f83d9ab = 0x1b0758af := by decide
theorem test_f0_to_f4 :
    f0 0x00000000 0x12345678 0x9abcdef0 = 0x88888888 ∧ f1 0x00000000 0x12345678 0x9abcdef0 = 0x9abcdef0 ∧
      f2 0x00000000 0x12345678 0x9abcdef0 = 0x77777777 ∧ f3 0x00000000 0x12345678 0x9abcdef0 = 0x00000008 ∧
      f4 0x00000000 0x12345678 0x9abcdef0 = 0x7777777f := by decide
theorem test_rotations :
    rotl 0x80000001 1 = 0x00000003 ∧ rotl 0x12345678 10 = 0xd159e048 ∧ rotr 0x12345678 7 = 0xf02468ac ∧
      shr 0x80000000 3 = 0x10000000 := by decide

/-! ## Memory -/

theorem test_memory_canonical :
    Memory.write (Memory.write [(5, 0x11#8)] 3 0x22#8) 5 0x00#8 = [(3, 0x22#8)] ∧
      Memory.read [(3, 0x22#8)] 3 = 0x22#8 ∧ Memory.read [(3, 0x22#8)] 4 = Memory.unlisted := by decide
theorem test_memory_wf_refuses :
    ¬ Memory.wf [(5, 0x11#8), (3, 0x22#8)] ∧ ¬ Memory.wf [(5, 0x00#8)] ∧ Memory.wf [(3, 0x22#8), (5, 0x11#8)] := by decide
/-- The top of the address space: the last byte is memory unless it is the register block's, one past it is not (R50, R55). -/
theorem test_range_does_not_wrap :
    State.reset.platform.validRange (2 ^ 64 - 4) 4 = true ∧ State.reset.platform.validRange (2 ^ 64 - 3) 4 = false ∧
      State.reset.platform.validRange (0xFFFFFFFFFFFF0000 - 4) 4 = true ∧
      State.reset.platform.validRange (0xFFFFFFFFFFFF0000 - 3) 4 = false ∧
      State.reset.platform.validRange 0xFFFFFFFFFFFF0210 4 = true := by decide

/-! ## One step each, on a small state -/

/-- A bank whose lane `i` holds `base + stride * i`, every register written. -/
def bankAt (base stride : Nat) : Bank := Vector.ofFn fun i : Fin 16 => ⟨BitVec.ofNat 64 (base + stride * i), true⟩

/-- All 64 pointer registers written: four areas of memory apart from each other. -/
def demo : State :=
  { State.reset with
    p256 := { State256.reset with src := bankAt 0x1000 0x40, dst := bankAt 0x2000 0x20 }
    p160 := { State160.reset with src := bankAt 0x3000 0x40, dst := bankAt 0x4000 0x20 } }

/-- Both commands accepted: each pipeline at its first position, both windows open. -/
def busyBoth : State := (demo.started .p256).started .p160

/-- A vector with the same word in every lane, or with the lane's number added to it. -/
def same (w : Word) : Vec := Vector.replicate 16 w
def counting (w : Word) : Vec := Vector.ofFn fun i : Fin 16 => w + BitVec.ofNat 32 i

/-- What a next state holds; `none` where there is none. -/
def after {α : Type} (r : Result) (f : State → α) : Option α :=
  match r with
  | .next t => some (f t)
  | .fault _ => none
  | .refused _ => none

/-- The name of a refusal. -/
def refusalOf (r : Result) : Option Refusal :=
  match r with
  | .next _ => none
  | .fault _ => none
  | .refused x => some x

/-- The name of a fault. -/
def faultOf (r : Result) : Option Fault :=
  match r with
  | .next _ => none
  | .fault x => some x
  | .refused _ => none

/-- One lane of the vectors of a state. -/
def lane (i : Fin 16) {n : Nat} (v : Vector Vec n) : List Word := v.toList.map fun u => u[i]

/-- The bytes of 95_test_vectors.md section 2.2 that the tests below read: word 1 of lane 3 and word 15 of lane 15. -/
def loaderMem (base : Nat) : List Host.Cell :=
  [(base + 0xC4, 0x34), (base + 0xC5, 0x35), (base + 0xC6, 0x36), (base + 0xC7, 0x37),
   (base + 0x3FC, 0x2C), (base + 0x3FD, 0x2D), (base + 0x3FE, 0x2E), (base + 0x3FF, 0x2F)]

/-- Section 2.2: lane 3 of `LDW.BE 1`; the next position is `LDW.BE 2`, 0x082. -/
theorem test_ldwBE_1 :
    after (exec (.ldwBE 1) { demo with mem := loaderMem 0x1000 }) (fun t => ((nth t.p256.w 1)[3], t.p256.seq)) =
      some (0x34353637, 0x082) := by decide +kernel
/-- Section 2.2: lane 15 of `LDW.BE 15`; the next position is INIT256, 0x100. -/
theorem test_ldwBE_15 :
    after (exec (.ldwBE 15) { demo with mem := loaderMem 0x1000 }) (fun t => ((nth t.p256.w 15)[15], t.p256.seq)) =
      some (0x2c2d2e2f, 0x100) := by decide +kernel
/-- Section 2.2: lane 3 of `LDW.LE 1`. -/
theorem test_ldwLE_1 :
    after (exec (.ldwLE 1) { demo with mem := loaderMem 0x3000 }) (fun t => ((nth t.p160.x 1)[3], t.p160.seq)) =
      some (0x37363534, 0x482) := by decide +kernel
/-- Section 2.2: lane 15 of `LDW.LE 15`; the next position is INIT160, 0x500. -/
theorem test_ldwLE_15 :
    after (exec (.ldwLE 15) { demo with mem := loaderMem 0x3000 }) (fun t => ((nth t.p160.x 15)[15], t.p160.seq)) =
      some (0x2f2e2d2c, 0x500) := by decide +kernel

/-- Section 3.1: the state after INIT256; the next position is EXP256 16, 0x190. -/
theorem test_init256 :
    after (exec .init256 demo) (fun t => (lane 9 t.p256.s, t.p256.seq)) =
      some ([0x6a09e667, 0xbb67ae85, 0x3c6ef372, 0xa54ff53a, 0x510e527f, 0x9b05688c, 0x1f83d9ab, 0x5be0cd19], 0x190) := by
  decide +kernel

/-- The first 16 schedule entries of section 3.1's block. -/
def abcSchedule : State :=
  { demo with p256 := { demo.p256 with w := setNth (setNth demo.p256.w 0 (same 0x61626380)) 15 (same 0x18) } }

/-- Section 3.1: `W[17]` is sig1 of `W[15]` = 000f0000. -/
theorem test_exp256_17 :
    after (exec (.exp256 17) abcSchedule) (fun t => ((nth t.p256.w 17)[4], t.p256.seq)) = some (0x000f0000, 0x192) := by
  decide +kernel

/-- The entries of section 3.1 that `W[63]` is computed from. -/
def lateSchedule : Vector Vec 64 :=
  setNth (setNth (setNth (setNth demo.p256.w 61 (same 0x668b2ff8)) 56 (same 0xef57b9cd)) 48 (same 0xfb3e89cb))
    47 (same 0x065c43da)

/-- Section 3.1: `W[63]`; the next position is RND256 0, 0x200. -/
theorem test_exp256_63 :
    after (exec (.exp256 63) { demo with p256 := { demo.p256 with w := lateSchedule } })
      (fun t => ((nth t.p256.w 63)[4], t.p256.seq)) = some (0x12b1edeb, 0x200) := by decide +kernel

/-- A state of the 256-bit engine, the same in every lane, with one schedule word. -/
def roundState (a b c d e f g h : Word) (t : Nat) (w : Word) : State :=
  { demo with p256 := { demo.p256 with
      w := setNth demo.p256.w t (same w)
      s := #v[same a, same b, same c, same d, same e, same f, same g, same h] } }

/-- Section 3.1, round 0. -/
theorem test_rnd256_0 :
    after (exec (.rnd256 0)
      (roundState 0x6a09e667 0xbb67ae85 0x3c6ef372 0xa54ff53a 0x510e527f 0x9b05688c 0x1f83d9ab 0x5be0cd19 0 0x61626380))
      (fun t => (lane 0 t.p256.s, t.p256.seq)) =
      some ([0x5d6aebcd, 0x6a09e667, 0xbb67ae85, 0x3c6ef372, 0xfa2a4622, 0x510e527f, 0x9b05688c, 0x1f83d9ab], 0x201) := by
  decide +kernel

/-- Section 3.1, round 63, with `W[63]` = 12b1edeb; the next position is FIN256, 0x280. -/
theorem test_rnd256_63 :
    after (exec (.rnd256 63)
      (roundState 0xd39a2165 0x04d24d6c 0xb85e2ce9 0xb6ae8fff 0xfb121210 0x948d25b6 0x961f4894 0xb21bad3d 63 0x12b1edeb))
      (fun t => (lane 15 t.p256.s, t.p256.seq)) =
      some ([0x506e3058, 0xd39a2165, 0x04d24d6c, 0xb85e2ce9, 0x5ef50f24, 0xfb121210, 0x948d25b6, 0x961f4894], 0x280) := by
  decide +kernel

/-- Section 3.1, FIN256. -/
theorem test_fin256 :
    after (exec .fin256
      (roundState 0x506e3058 0xd39a2165 0x04d24d6c 0xb85e2ce9 0x5ef50f24 0xfb121210 0x948d25b6 0x961f4894 0 0))
      (fun t => (lane 7 t.p256.s, t.p256.seq)) =
      some ([0xba7816bf, 0x8f01cfea, 0x414140de, 0x5dae2223, 0xb00361a3, 0x96177a9c, 0xb410ff61, 0xf20015ad], 0x300) := by
  decide +kernel

/-- Four bytes of memory. -/
def bytes4 (a : Nat) (t : State) : List Byte := Memory.readBytes t.mem a 4

/-- Section 2.3: lane 2's last word, `S[7]` = A0B0C0D0 + 7 * 01010101 + 2; the command is then over. -/
theorem test_stwBE_7 :
    after (exec (.stwBE 7) { demo with p256 := { demo.p256 with s := setNth demo.p256.s 7 (counting 0xA7B7C7D7) } })
      (fun t => (bytes4 0x205C t, bytes4 0x2058 t, t.p256.seq)) =
      some ([0xa7, 0xb7, 0xc7, 0xd9], [0, 0, 0, 0], 0x000) := by decide +kernel

/-- Section 2.3: lane 2's last word, `H[4]` = A0B0C0D0 + 4 * 01010101 + 2; bytes 20 onward are untouched. -/
theorem test_stwLE_4 :
    after (exec (.stwLE 4) { demo with p160 := { demo.p160 with h := setNth demo.p160.h 4 (counting 0xA4B4C4D4) } })
      (fun t => (bytes4 0x4050 t, bytes4 0x4054 t, t.p160.seq)) =
      some ([0xd6, 0xc4, 0xb4, 0xa4], [0, 0, 0, 0], 0x000) := by decide +kernel

/-- Section 2.4, lane 0 and lane 15, byte 31 not written and byte 33 overwritten; the next position is `LDW.LE 0`, 0x480. -/
theorem test_pad160 :
    after (exec .pad160 { demo with mem := [(0x301F, 0x1F), (0x3021, 0xEE)] })
      (fun t => (bytes4 0x301F t, bytes4 0x3038 t, bytes4 0x33E0 t, t.p160.seq)) =
      some ([0x1f, 0x80, 0, 0], [0, 0x01, 0, 0], [0x80, 0, 0, 0], 0x480) := by decide +kernel

/-- Section 4.1: both lines after INIT160. -/
theorem test_init160 :
    after (exec .init160 demo) (fun t => (lane 3 t.p160.l1, lane 12 t.p160.l2, t.p160.seq)) =
      some ([0x67452301, 0xefcdab89, 0x98badcfe, 0x10325476, 0xc3d2e1f0],
        [0x67452301, 0xefcdab89, 0x98badcfe, 0x10325476, 0xc3d2e1f0], 0x580) := by decide +kernel

/-- A state of the 160-bit engine, the same in every lane, with section 4.1's padded words. -/
def linesState (l1 l2 : Vector Word 5) : State :=
  { demo with p160 := { demo.p160 with
      x := setNth (setNth demo.p160.x 8 (same 0x80)) 14 (same 0x100), l1 := l1.map same, l2 := l2.map same } }

/-- Section 4.1, line 1 round 0: function F0, shift 11. -/
theorem test_rnd160L1_0 :
    after (exec (.rnd160L1 0) (linesState #v[0x67452301, 0xefcdab89, 0x98badcfe, 0x10325476, 0xc3d2e1f0] #v[0, 0, 0, 0, 0]))
      (fun t => (lane 5 t.p160.l1, t.p160.seq)) =
      some ([0xc3d2e1f0, 0x1602f864, 0xefcdab89, 0xeb73fa62, 0x10325476], 0x581) := by decide +kernel

/-- Section 4.1, line 1 round 79; the next position is `RND160.L2 0`, 0x600. -/
theorem test_rnd160L1_79 :
    after (exec (.rnd160L1 79) (linesState #v[0x17eb185d, 0x5dff27a9, 0x91bfd817, 0xceae3888, 0xf5fd6dc6] #v[0, 0, 0, 0, 0]))
      (fun t => (lane 5 t.p160.l1, t.p160.seq)) =
      some ([0xf5fd6dc6, 0x46011031, 0x5dff27a9, 0xff605e46, 0xceae3888], 0x600) := by decide +kernel

/-- Section 4.1, line 2 round 0: function F4, constant 50a28be6, shift 8. -/
theorem test_rnd160L2_0 :
    after (exec (.rnd160L2 0) (linesState #v[0, 0, 0, 0, 0] #v[0x67452301, 0xefcdab89, 0x98badcfe, 0x10325476, 0xc3d2e1f0]))
      (fun t => (lane 5 t.p160.l2, t.p160.seq)) =
      some ([0xc3d2e1f0, 0xddd63fb8, 0xefcdab89, 0xeb73fa62, 0x10325476], 0x601) := by decide +kernel

/-- Section 4.1, line 2 round 16, where the function and the constant change. -/
theorem test_rnd160L2_16 :
    after (exec (.rnd160L2 16) (linesState #v[0, 0, 0, 0, 0] #v[0x5c71e62f, 0x939be3e2, 0xf1c2e774, 0xd79e56e7, 0x86994fad]))
      (fun t => (lane 5 t.p160.l2, t.p160.seq)) =
      some ([0x86994fad, 0xbbcfda86, 0x939be3e2, 0x0b9dd3c7, 0xd79e56e7], 0x611) := by decide +kernel

/-- Section 4.1, COMB160. -/
theorem test_comb160 :
    after (exec .comb160 (linesState #v[0xf5fd6dc6, 0x46011031, 0x5dff27a9, 0xff605e46, 0xceae3888]
        #v[0x59d66ca8, 0xc673b925, 0x95b1dc12, 0xd834d49f, 0x03f93fbb])) (fun t => (lane 0 t.p160.h, t.p160.seq)) =
      some ([0x2601a7d1, 0x9c147aff, 0x38b6f9a6, 0x804408db, 0x42f80f44], 0x700) := by decide +kernel

theorem test_idle : after (exec .idle demo) (fun t => decide (t = demo)) = some true := by decide +kernel

/-- Section 2.5: BT256 is accepted, SEQ256 at `LDW.BE 0` and STATUS 1; R207 with section 5.4: unwritten pointers after reset. -/
theorem test_bt256 :
    after (exec .bt256 demo) (fun t => (t.p256.seq, t.statusWord)) = some (0x080, 1) ∧
      faultOf (exec .bt256 State.reset) = some (.unwrittenPointer .p256) := by decide +kernel
/-- Section 5.4: `SRC[0]` = 0x10002 is refused; a command while busy is refused (R180). -/
theorem test_bt256_stops :
    refusalOf (exec .bt256 { demo with p256 := { demo.p256 with src := bankAt 0x10002 0x40 } }) = some .srcMisaligned ∧
      refusalOf (exec .bt256 busyBoth) = some .commandWhileBusy := by decide +kernel
/-- Section 2.5: BT160 is accepted while P256 is busy, SEQ160 at PAD160 and STATUS 3. -/
theorem test_bt160 :
    after (exec .bt160 (demo.started .p256)) (fun t => (t.p160.seq, t.statusWord)) = some (0x400, 3) := by decide +kernel
/-- A digest range that runs into the register block is `bad_pointer`; blocks where the other command writes are
`pipeline_race` (R62). -/
theorem test_bt160_stops :
    refusalOf (exec .bt160 { demo with p160 := { demo.p160 with dst := bankAt (0xFFFFFFFFFFFF0000 - 19) 0 } }) =
        some .badPointer ∧
      refusalOf (exec .bt160
        { demo.started .p256 with p160 := { demo.p160 with src := bankAt 0x2000 0x20 } }) = some .pipelineRace := by
  decide +kernel

theorem test_wr64P256Src :
    after (exec (.wr64P256Src 15 0x103C0) State.reset) (fun t => (t.p256.src[15], t.p256.src[14])) =
      some (⟨0x103C0, true⟩, ⟨0, false⟩) := by decide +kernel
/-- Section 5.4: a pointer write while busy is refused. -/
theorem test_wr64P256Dst :
    after (exec (.wr64P256Dst 0 0x20000) State.reset) (fun t => t.p256.dst[0]) = some ⟨0x20000, true⟩ ∧
      refusalOf (exec (.wr64P256Dst 0 0x20000) busyBoth) = some .regWriteWhileBusy := by decide +kernel
theorem test_wr64P160Src :
    after (exec (.wr64P160Src 9 0x30240) State.reset) (fun t => t.p160.src[9]) = some ⟨0x30240, true⟩ := by decide +kernel
/-- Section 5.4: allowed while only the other pipeline is busy. -/
theorem test_wr64P160Dst :
    after (exec (.wr64P160Dst 0 0x40000) (demo.started .p256)) (fun t => t.p160.dst[0]) = some ⟨0x40000, true⟩ := by
  decide +kernel
theorem test_rd64P256Src : after (exec (.rd64P256Src 1) busyBoth) (fun t => t.host.rdata) = some 0x1040 := by decide +kernel
theorem test_rd64P256Dst : after (exec (.rd64P256Dst 15) demo) (fun t => t.host.rdata) = some 0x21E0 := by decide +kernel
theorem test_rd64P160Src : after (exec (.rd64P160Src 15) demo) (fun t => t.host.rdata) = some 0x33C0 := by decide +kernel
theorem test_rd64P160Dst : after (exec (.rd64P160Dst 2) demo) (fun t => t.host.rdata) = some 0x4040 := by decide +kernel
/-- Section 2.5: the word 2 is BT160; 0 and 3 are reserved. -/
theorem test_wr32Cmd :
    after (exec (.wr32Cmd 2) demo) (fun t => t.p160.seq) = some 0x400 ∧
      refusalOf (exec (.wr32Cmd 0) demo) = some .reservedCommand ∧
      refusalOf (exec (.wr32Cmd 3) demo) = some .reservedCommand := by decide +kernel
theorem test_rd32Cmd :
    after (exec .rd32Cmd { busyBoth with host := { busyBoth.host with rdata := 7 } }) (fun t => t.host.rdata) = some 0 := by
  decide +kernel
/-- Section 2.5: STATUS reads 3 with both busy, 2 with P160 busy, 0 with both idle. -/
theorem test_rd32Status :
    after (exec .rd32Status busyBoth) (fun t => t.host.rdata) = some 3 ∧
      after (exec .rd32Status (demo.started .p160)) (fun t => t.host.rdata) = some 2 ∧
      after (exec .rd32Status demo) (fun t => t.host.rdata) = some 0 := by decide +kernel
theorem test_wr32Status :
    after (exec (.wr32Status 3) demo) (fun t => decide (t = demo)) = some true := by decide +kernel

/-! ## The functions computed, on one block -/

/-- The block of "abc" (95_test_vectors.md section 3.1). -/
def abcBlock : Block :=
  Vector.ofFn fun n : Fin 64 => [0x61, 0x62, 0x63, 0x80].getD n (if n = 63 then 0x18 else 0x00)

/-- Section 3.1, after FIN256. -/
theorem test_c256_abc :
    c256 abcBlock = [0xba7816bf, 0x8f01cfea, 0x414140de, 0x5dae2223, 0xb00361a3, 0x96177a9c, 0xb410ff61, 0xf20015ad] := by
  decide +kernel
/-- Section 4.1, COMB160 for the message of 32 bytes 00. -/
theorem test_c160_zeros :
    c160 (paddedBlock fun _ => 0) = [0x2601a7d1, 0x9c147aff, 0x38b6f9a6, 0x804408db, 0x42f80f44] := by decide +kernel

/-! ## The host and the turns -/

/-- Section 5.4: a store into `SRC[2] + 5` while BUSY256 = 1 is `host_race`; a load of the same byte is not. -/
theorem test_host_race :
    refusalOf (hostAct (.store (0x1080 + 5) [0xAA]) (demo.started .p256)) = some .hostRace ∧
      after (hostAct (.load (0x1080 + 5) 1) (demo.started .p256)) (fun t => t.host.ldata) = some [0] := by decide +kernel
/-- R220: a reset while busy goes to IDLE at once, and no pointer register holds a value. -/
theorem test_reset_while_busy :
    after (hostAct .reset busyBoth) (fun t => (t.statusWord, t.p256.src[0].written)) = some (0, false) := by decide +kernel
/-- R220, R32: with no command in progress memory is untouched. -/
theorem test_reset_while_idle :
    after (hostAct .reset { demo with mem := [(0x2000, 0xAA)] }) (fun t => t.mem) = some [(0x2000, 0xAA)] := by
  decide +kernel
/-- U12: only the write footprint of the command in progress is forgotten: byte 19 of P160's digest of lane 0 and byte 32 of
its block, not the guard byte 20, byte 31 of the block, or a digest of the idle P256. -/
theorem test_reset_forgets_the_footprint :
    0x4013 ∈ (demo.started .p160).abandonedAddrs .p160 ∧ 0x3020 ∈ (demo.started .p160).abandonedAddrs .p160 ∧
      0x4014 ∉ (demo.started .p160).abandonedAddrs .p160 ∧ 0x301F ∉ (demo.started .p160).abandonedAddrs .p160 ∧
      (demo.started .p160).abandonedAddrs .p256 = [] := by decide +kernel
/-- R92: `setdst160` writes `P160.DST[2]` through offset 0x190 (program P2). -/
theorem test_setdst160 :
    (setdst160 0x40000 0x20)[2]? = some (.bus ⟨.write, .w64, 0x190, 0x40040⟩) ∧ (setdst160 0x40000 0x20).length = 16 := by
  decide +kernel
/-- A step after reset runs the word placed for it: EXP256 16, and the command word 2, which faults (section 5.4). -/
theorem test_step_from_reset :
    after (step (State.reset.withFetchWord 16 0x190)) (fun t => t.p256.seq) = some 0x191 ∧
      faultOf (step (State.reset.withFetchWord 32 2)) = some (.unwrittenPointer .p160) := by decide +kernel

/-! ## Witnesses: states and operands that meet the hypotheses of each statement of Obligations.lean -/

theorem demo_lanes (b : Bank) (off n : Nat) (h : demo.lanesValid b off n = true) : demo.LanesValid b off n :=
  lanesValid_iff.1 h

theorem demo_inv : demo.Inv where
  mem_wf := by decide
  legal256 := by decide
  legal160 := by decide
  window256 := by decide
  window160 := by decide
  ready256 := fun h => absurd h (by decide)
  ready160 := fun h => absurd h (by decide)
  raceFree := fun h => absurd h (by decide)

theorem demo_ready256 : demo.Ready256 :=
  ⟨bank_written_iff.1 (by decide +kernel), bank_written_iff.1 (by decide +kernel),
    sourcesAligned256_iff.1 (by decide +kernel), lanesValid_iff.1 (by decide +kernel), lanesValid_iff.1 (by decide +kernel)⟩

theorem demo_ready160 : demo.Ready160 :=
  ⟨bank_written_iff.1 (by decide +kernel), bank_written_iff.1 (by decide +kernel),
    sourcesAligned160_iff.1 (by decide +kernel), lanesValid_iff.1 (by decide +kernel), lanesValid_iff.1 (by decide +kernel)⟩

theorem demo_raceFree : demo.RaceFree := footprintsConflict_iff.1 (by decide +kernel)

/-- Only P256 is busy. -/
def busy256 : State := demo.started .p256

/-- Only P160 is busy. -/
def busy160 : State := demo.started .p160

theorem busyBoth_inv : busyBoth.Inv where
  mem_wf := by decide
  legal256 := by decide +kernel
  legal160 := by decide +kernel
  window256 := fun _ => rfl
  window160 := fun _ => rfl
  ready256 := fun _ => demo_ready256
  ready160 := fun _ => demo_ready160
  raceFree := fun _ _ => demo_raceFree

theorem busy256_inv : busy256.Inv where
  mem_wf := by decide
  legal256 := by decide +kernel
  legal160 := by decide +kernel
  window256 := fun _ => rfl
  window160 := fun h => absurd h (by decide +kernel)
  ready256 := fun _ => demo_ready256
  ready160 := fun h => absurd h (by decide +kernel)
  raceFree := fun _ h => absurd h (by decide +kernel)

theorem busy160_inv : busy160.Inv where
  mem_wf := by decide
  legal256 := by decide +kernel
  legal160 := by decide +kernel
  window256 := fun h => absurd h (by decide +kernel)
  window160 := fun _ => rfl
  ready256 := fun h => absurd h (by decide +kernel)
  ready160 := fun _ => demo_ready160
  raceFree := fun h => absurd h (by decide +kernel)

theorem demo_apart256 : demo.p256.dst.Apart 32 := by decide +kernel
theorem demo_apart160 : demo.p160.dst.Apart 20 := by decide +kernel
theorem demo_padding : demo.p160.src.ApartOrEqual 32 := by decide +kernel

/-! ### Encoding -/

theorem witness_DecodeEncodeRoundTrip : (Instr.rnd160L2 79).WF ∧ (Instr.exp256 16).WF := by decide
theorem witness_EncodeDecodeRoundTrip :
    decode (.cmd 2) = .ok .bt160 ∧ decode (.seq 0x64F) = .ok (.rnd160L2 79) ∧
      decode (.bus ⟨.write, .w32, 0x208, 0xFFFFFFFF⟩) = .ok (.wr32Status 0xFFFFFFFF) ∧
      decode (.bus ⟨.write, .w64, 0x1F8, 0xFFFFFFFFFFFFFFFF⟩) = .ok (.wr64P160Dst 15 0xFFFFFFFFFFFFFFFF) :=
  ⟨rfl, rfl, rfl, rfl⟩
theorem witness_ReservedEncodingsRejected :
    ((3 : BitVec 32) ≠ 1 ∧ (3 : BitVec 32) ≠ 2) ∧
      ¬ ((0x3 : BitVec 4) = 0x3 ∧ 16 ≤ (15 : BitVec 7).toNat ∧ (15 : BitVec 7).toNat ≤ 63) ∧
      ¬ ((BusWidth.w64 = .w64 ∧ (0x200 : BitVec 64).toNat < 0x200) ∨ BusWidth.w64 = .w32) ∧
      ¬ ((0x204 : BitVec 64).toNat = 0x200 ∨ (0x204 : BitVec 64).toNat = 0x208) := by decide
theorem witness_RegisterMapDecodes :
    (0x078 : BitVec 64).toNat = 0x000 + 8 * (15 : BitVec 4).toNat ∧
      (0x080 : BitVec 64).toNat = 0x080 + 8 * (0 : BitVec 4).toNat ∧
      (0x178 : BitVec 64).toNat = 0x100 + 8 * (15 : BitVec 4).toNat ∧
      (0x1F8 : BitVec 64).toNat = 0x180 + 8 * (15 : BitVec 4).toNat := by decide

/-! ### The step -/

theorem witness_StepRunsDecodedInstruction :
    decodeSeq .p256 busyBoth.p256.seq = .ok (.ldwBE 0) ∧ decodeSeq .p160 busyBoth.p160.seq = .ok .pad160 ∧
      decode (.cmd 1) = .ok .bt256 ∧ decode (.bus ⟨.read, .w32, 0x208, 0⟩) = .ok .rd32Status ∧
      (State.reset.withFetchWord 32 1).turns = [.host] ∧ (State.reset.withFetchWord 32 1).host.program = [.cmd 1] ∧
      (State.reset.withFetchWord 16 0x080).turns = [.p256] ∧ (State.reset.withFetchWord 16 0x400).turns = [.p160] :=
  ⟨rfl, rfl, rfl, rfl, rfl, rfl, rfl, rfl⟩
theorem witness_RejectedEncodingsRefuseTheStep :
    decodeSeq .p256 0x400 = .error .reservedPosition ∧ decodeSeq .p160 0x481 = .ok (.ldwLE 1) ∧
      decodeSeq .p160 0x490 = .error .reservedPosition ∧ decode (.cmd 0) = .error .reservedCommand ∧
      decode (.bus ⟨.read, .w32, 0x204, 0⟩) = .error .badRegisterAccess :=
  ⟨rfl, rfl, rfl, rfl, rfl⟩
theorem witness_FreeTurnIsSomeReadyAgent :
    (State.reset.turns = [] ∧ State.reset.Over) ∧ (busyBoth.turns = [] ∧ ¬ busyBoth.Over) := by
  refine ⟨⟨rfl, rfl, by decide, by decide⟩, rfl, fun h => absurd h.2.1 (by decide +kernel)⟩

/-! ### Micro-operations, at the ends of their index ranges -/

theorem witness_LdwBELoadsBigEndianWords :
    (15 : BitVec 7).toNat ≤ 15 ∧ demo.LanesValid demo.p256.src (4 * (15 : BitVec 7).toNat) 4 ∧
      demo.LanesValid demo.p256.src (4 * (0 : BitVec 7).toNat) 4 :=
  ⟨by decide, demo_lanes _ _ _ (by decide +kernel), demo_lanes _ _ _ (by decide +kernel)⟩
theorem witness_LdwLELoadsLittleEndianWords :
    (15 : BitVec 7).toNat ≤ 15 ∧ demo.LanesValid demo.p160.src (4 * (15 : BitVec 7).toNat) 4 :=
  ⟨by decide, demo_lanes _ _ _ (by decide +kernel)⟩
theorem witness_Exp256ExtendsTheSchedule :
    (16 ≤ (16 : BitVec 7).toNat ∧ (16 : BitVec 7).toNat ≤ 63) ∧ 16 ≤ (63 : BitVec 7).toNat ∧ (63 : BitVec 7).toNat ≤ 63 := by
  decide
theorem witness_Rnd256PerformsOneRound : (63 : BitVec 7).toNat ≤ 63 := by decide
theorem witness_Rnd160L1PerformsOneRound : (79 : BitVec 7).toNat ≤ 79 := by decide
theorem witness_Rnd160L2PerformsOneRound : (79 : BitVec 7).toNat ≤ 79 := by decide
/-- All blocks of P160 and all digests of both pipelines in one place: every lane writes the same bytes. -/
def shared : State :=
  { demo with
    p256 := { demo.p256 with dst := bankAt 0x2000 0, s := Vector.replicate 8 (same 0xA0B0C0D0) }
    p160 := { demo.p160 with src := bankAt 0x3000 0, dst := bankAt 0x4000 0, h := Vector.replicate 5 (same 0xA0B0C0D0) } }

theorem witness_Pad160WritesPaddingAndLength :
    (demo.LanesValid demo.p160.src 32 32 ∧ Memory.wf demo.mem) ∧
      ∀ (j : Fin 16) (m : Nat), m < 64 → 32 ≤ m → shared.p160.src.addr j + m = shared.p160.src.addr 3 + 57 → m = 57 :=
  ⟨⟨demo_lanes _ _ _ (by decide +kernel), demo_inv.mem_wf⟩, by decide +kernel⟩
theorem witness_StwBEStoresBigEndianWords :
    ((7 : BitVec 7).toNat ≤ 7 ∧ shared.LanesValid shared.p256.dst (4 * (7 : BitVec 7).toNat) 4 ∧ Memory.wf shared.mem) ∧
      ∀ (j : Fin 16) (m : Nat), m < 4 → shared.p256.dst.addr j + m = shared.p256.dst.addr 3 + 3 →
        (nth shared.p256.s 7)[j].extractLsb' (24 - 8 * m) 8 = (nth shared.p256.s 7)[(3 : Fin 16)].extractLsb' (24 - 8 * 3) 8 :=
  ⟨⟨by decide, lanesValid_iff.1 (by decide +kernel), by decide⟩, by decide +kernel⟩
theorem witness_StwLEStoresLittleEndianWords :
    ((4 : BitVec 7).toNat ≤ 4 ∧ shared.LanesValid shared.p160.dst (4 * (4 : BitVec 7).toNat) 4 ∧ Memory.wf shared.mem) ∧
      ∀ (j : Fin 16) (m : Nat), m < 4 → shared.p160.dst.addr j + m = shared.p160.dst.addr 3 + 0 →
        (nth shared.p160.h 4)[j].extractLsb' (8 * m) 8 = (nth shared.p160.h 4)[(3 : Fin 16)].extractLsb' (8 * 0) 8 :=
  ⟨⟨by decide, lanesValid_iff.1 (by decide +kernel), by decide⟩, by decide +kernel⟩

/-- Digest pointers two bytes apart, and blocks two bytes apart: lanes of one micro-operation conflict. -/
def overlapping : State :=
  { demo with
    p256 := { demo.p256 with dst := bankAt 0x2000 2, s := setNth demo.p256.s 7 (counting 0xA7B7C7D7) }
    p160 := { demo.p160 with src := bankAt 0x3000 4, dst := bankAt 0x4000 2 } }

theorem witness_ConflictingWritesLeaveOneOfTheValues :
    (overlapping.LanesValid overlapping.p256.dst (4 * (7 : BitVec 7).toNat) 4 ∧
      overlapping.LanesValid overlapping.p160.dst (4 * (4 : BitVec 7).toNat) 4 ∧
      overlapping.LanesValid overlapping.p160.src 32 32 ∧ Memory.wf overlapping.mem) ∧
      overlapping.p256.dst.Covers 28 4 0x2020 ∧ ¬ overlapping.p256.dst.Apart 4 ∧ ¬ overlapping.p160.src.ApartOrEqual 32 :=
  ⟨⟨lanesValid_iff.1 (by decide +kernel), lanesValid_iff.1 (by decide +kernel), lanesValid_iff.1 (by decide +kernel),
    by decide⟩, by decide +kernel, by decide +kernel, by decide +kernel⟩

/-- Every pointer at the last byte below the register block. -/
def badPointers : State :=
  { demo with
    p256 := { demo.p256 with src := bankAt 0xFFFFFFFFFFFEFFFC 0, dst := bankAt 0xFFFFFFFFFFFEFFFF 0 }
    p160 := { demo.p160 with src := bankAt 0xFFFFFFFFFFFEFFFC 0, dst := bankAt 0xFFFFFFFFFFFEFFFF 0 } }

theorem badPointers_stop {b : Bank} {off n : Nat} (h : badPointers.lanesValid b off n = false) :
    ¬ badPointers.LanesValid b off n := fun hv => by simp [lanesValid_iff.2 hv] at h

theorem witness_MicroOperationStops_index :
    15 < (16 : BitVec 7).toNat ∧ (15 : BitVec 7).toNat < 16 ∧ 63 < (64 : BitVec 7).toNat ∧ 7 < (8 : BitVec 7).toNat ∧
      79 < (80 : BitVec 7).toNat ∧ 4 < (5 : BitVec 7).toNat := by decide
theorem witness_MicroOperationStops_pointers :
    ¬ badPointers.LanesValid badPointers.p256.src (4 * (15 : BitVec 7).toNat) 4 ∧
      ¬ badPointers.LanesValid badPointers.p160.src (4 * (15 : BitVec 7).toNat) 4 ∧
      ¬ badPointers.LanesValid badPointers.p256.dst (4 * (0 : BitVec 7).toNat) 4 ∧
      ¬ badPointers.LanesValid badPointers.p160.dst (4 * (0 : BitVec 7).toNat) 4 ∧
      ¬ badPointers.LanesValid badPointers.p160.src 32 32 :=
  ⟨badPointers_stop (by decide +kernel), badPointers_stop (by decide +kernel), badPointers_stop (by decide +kernel),
    badPointers_stop (by decide +kernel), badPointers_stop (by decide +kernel)⟩

/-! ### Commands and register accesses -/

/-- Accepted with the other pipeline busy. -/
theorem witness_Bt256IsAccepted :
    busy160.busy .p256 = false ∧ busy160.Ready256 ∧ busy160.busy .p160 = true ∧ busy160.RaceFree :=
  ⟨by decide +kernel, demo_ready256, by decide +kernel, demo_raceFree⟩
theorem witness_Bt160IsAccepted :
    busy256.busy .p160 = false ∧ busy256.Ready160 ∧ busy256.busy .p256 = true ∧ busy256.RaceFree :=
  ⟨by decide +kernel, demo_ready160, by decide +kernel, demo_raceFree⟩

/-- Block pointers that are no multiple of 4. -/
def misaligned : State :=
  { demo with
    p256 := { demo.p256 with src := bankAt 0x1002 0x40 }
    p160 := { demo.p160 with src := bankAt 0x3001 0x40 } }

/-- The 256-bit digests go onto the 160-bit blocks (program P3's buffers), and the other pipeline is busy. -/
def racing256 : State := { busy160 with p256 := { demo.p256 with dst := bankAt 0x3000 0x40 } }
def racing160 : State := { busy256 with p160 := { demo.p160 with src := bankAt 0x2000 0x20 } }

theorem witness_CommandStops_busy_and_unwritten :
    busyBoth.busy .p256 = true ∧ busyBoth.busy .p160 = true ∧
      (State.reset.busy .p256 = false ∧ ¬ (State.reset.p256.src.Written ∧ State.reset.p256.dst.Written)) ∧
      State.reset.busy .p160 = false ∧ ¬ (State.reset.p160.src.Written ∧ State.reset.p160.dst.Written) :=
  ⟨by decide +kernel, by decide +kernel, ⟨by decide, fun h => absurd (h.1 0) (by decide)⟩, by decide,
    fun h => absurd (h.1 0) (by decide)⟩
theorem witness_CommandStops_misaligned :
    (misaligned.busy .p256 = false ∧ misaligned.p256.src.Written ∧ misaligned.p256.dst.Written ∧
      ¬ misaligned.p256.src.Aligned) ∧
      misaligned.busy .p160 = false ∧ misaligned.p160.src.Written ∧ misaligned.p160.dst.Written ∧
      ¬ misaligned.p160.src.Aligned :=
  ⟨⟨by decide, bank_written_iff.1 (by decide +kernel), bank_written_iff.1 (by decide +kernel),
    fun h => absurd (h 15) (by decide +kernel)⟩, by decide, bank_written_iff.1 (by decide +kernel),
    bank_written_iff.1 (by decide +kernel), fun h => absurd (h 15) (by decide +kernel)⟩
theorem witness_CommandStops_badPointer :
    (badPointers.busy .p256 = false ∧ badPointers.p256.src.Written ∧ badPointers.p256.dst.Written ∧
      badPointers.p256.src.Aligned ∧
      ¬ (badPointers.LanesValid badPointers.p256.src 0 64 ∧ badPointers.LanesValid badPointers.p256.dst 0 32)) ∧
      badPointers.busy .p160 = false ∧ badPointers.p160.src.Written ∧ badPointers.p160.dst.Written ∧
      badPointers.p160.src.Aligned ∧
      ¬ (badPointers.LanesValid badPointers.p160.src 0 64 ∧ badPointers.LanesValid badPointers.p160.dst 0 20) :=
  ⟨⟨by decide, bank_written_iff.1 (by decide +kernel), bank_written_iff.1 (by decide +kernel), by decide +kernel,
    fun h => badPointers_stop (by decide +kernel) h.1⟩, by decide, bank_written_iff.1 (by decide +kernel),
    bank_written_iff.1 (by decide +kernel), by decide +kernel, fun h => badPointers_stop (by decide +kernel) h.1⟩
theorem witness_CommandStops_race :
    (racing256.busy .p256 = false ∧ racing256.Ready256 ∧ racing256.busy .p160 = true ∧ ¬ racing256.RaceFree) ∧
      racing160.busy .p160 = false ∧ racing160.Ready160 ∧ racing160.busy .p256 = true ∧ ¬ racing160.RaceFree :=
  ⟨⟨by decide +kernel,
    ⟨bank_written_iff.1 (by decide +kernel), bank_written_iff.1 (by decide +kernel), by decide +kernel,
      lanesValid_iff.1 (by decide +kernel), lanesValid_iff.1 (by decide +kernel)⟩, by decide +kernel,
    fun h => absurd (footprintsConflict_iff.2 h) (by decide +kernel)⟩, by decide +kernel,
    ⟨bank_written_iff.1 (by decide +kernel), bank_written_iff.1 (by decide +kernel), by decide +kernel,
      lanesValid_iff.1 (by decide +kernel), lanesValid_iff.1 (by decide +kernel)⟩, by decide +kernel,
    fun h => absurd (footprintsConflict_iff.2 h) (by decide +kernel)⟩
theorem witness_CmdWriteGivesTheNamedCommand : (0x101 : BitVec 32) ≠ 1 ∧ (0x101 : BitVec 32) ≠ 2 := by decide
theorem witness_PointerWriteSetsOneRegister :
    busy160.busy .p256 = false ∧ busy160.host.await256 = false ∧ busy256.busy .p160 = false ∧
      busy256.host.await160 = false ∧ (0 : Fin 16) ≠ (15 : BitVec 4).toFin := by decide +kernel

/-- Both commands complete, the host has not looked yet. -/
def notYetSeen : State := { demo with host := { demo.host with await256 := true, await160 := true } }

theorem witness_PointerWriteStops :
    (busyBoth.busy .p256 = true ∧ busyBoth.busy .p160 = true) ∧
      (notYetSeen.busy .p256 = false ∧ notYetSeen.host.await256 = true) ∧
      notYetSeen.busy .p160 = false ∧ notYetSeen.host.await160 = true := by decide +kernel
theorem witness_PointerReadReturnsTheRegister :
    demo.p160.dst[(15 : BitVec 4).toFin].written = true ∧ State.reset.p160.dst[(15 : BitVec 4).toFin].written = false := by
  decide +kernel
theorem witness_PointerWriteThenRead : ∃ t u,
    exec (.wr64P160Dst 15 0x401E0) State.reset = .next t ∧ exec (.rd64P160Dst 15) t = .next u :=
  ⟨_, _, rfl, rfl⟩

/-! ### The host -/

theorem validRange_of {s : State} {a n : Nat} (h : s.platform.validRange a n = true) : s.platform.ValidRange a n :=
  validRange_iff.1 h

/-- With both windows open: a store of the guard bytes after a digest of P160. -/
theorem witness_HostStoreWritesItsBytes :
    busyBoth.platform.ValidRange 0x4014 [(0xAA : Byte), 0xAA].length ∧ Memory.wf busyBoth.mem ∧
      KeepsOff busyBoth.host.await256 (fun b => busyBoth.Reads256 b ∨ busyBoth.Writes256 b) 0x4014 2 ∧
      KeepsOff busyBoth.host.await160 (fun b => busyBoth.Reads160 b ∨ busyBoth.Writes160 b) 0x4014 2 := by
  refine ⟨validRange_of (by decide +kernel), busyBoth_inv.mem_wf, fun h b h1 h2 hc => ?_, fun h b h1 h2 hc => ?_⟩
  · exact racesWith_false_iff.1 (show busyBoth.racesWith .p256 (busyBoth.footprint .p256) (0x4014, 2) = false by
      decide +kernel) h b h1 h2 (footprint256_iff.2 hc)
  · exact racesWith_false_iff.1 (show busyBoth.racesWith .p160 (busyBoth.footprint .p160) (0x4014, 2) = false by
      decide +kernel) h b h1 h2 (footprint160_iff.2 hc)
/-- With both windows open: a load of a block that P256 is reading. -/
theorem witness_HostLoadReturnsItsBytes :
    busyBoth.platform.ValidRange 0x1000 64 ∧ KeepsOff busyBoth.host.await256 busyBoth.Writes256 0x1000 64 ∧
      KeepsOff busyBoth.host.await160 busyBoth.Writes160 0x1000 64 := by
  refine ⟨validRange_of (by decide +kernel), fun h b h1 h2 hc => ?_, fun h b h1 h2 hc => ?_⟩
  · exact racesWith_false_iff.1 (show busyBoth.racesWith .p256 (busyBoth.writeRanges .p256) (0x1000, 64) = false by
      decide +kernel) h b h1 h2 (writes256_iff.2 hc)
  · exact racesWith_false_iff.1 (show busyBoth.racesWith .p160 (busyBoth.writeRanges .p160) (0x1000, 64) = false by
      decide +kernel) h b h1 h2 (writes160_iff.2 hc)
/-- A store onto the last byte of a block of P256, a load of the last digest byte of P160's lane 0. -/
theorem witness_HostRacesAreRefused :
    (busyBoth.platform.ValidRange 0x103F [(0xAA : Byte)].length ∧
      ¬ (KeepsOff busyBoth.host.await256 (fun b => busyBoth.Reads256 b ∨ busyBoth.Writes256 b) 0x103F 1 ∧
         KeepsOff busyBoth.host.await160 (fun b => busyBoth.Reads160 b ∨ busyBoth.Writes160 b) 0x103F 1)) ∧
      busyBoth.platform.ValidRange 0x4013 1 ∧
      ¬ (KeepsOff busyBoth.host.await256 busyBoth.Writes256 0x4013 1 ∧
         KeepsOff busyBoth.host.await160 busyBoth.Writes160 0x4013 1) :=
  ⟨⟨validRange_of (by decide +kernel), fun h => h.1 rfl 0x103F (by decide) (by decide) (.inl (by decide +kernel))⟩,
    validRange_of (by decide +kernel), fun h => h.2 rfl 0x4013 (by decide) (by decide) (.inr (by decide +kernel))⟩
/-- A reset that interrupts both commands: memory is canonical, and a guard byte is in neither write footprint. -/
theorem witness_ResetAbandonsTheCommands :
    (Memory.wf busyBoth.mem ∧ ¬ busyBoth.Writes256 0x4014 ∧ ¬ busyBoth.Writes160 0x4014 ∧ busyBoth.Writes160 0x4013) ∧
      demo.busy .p256 = false ∧ demo.busy .p160 = false :=
  ⟨⟨busyBoth_inv.mem_wf, by decide +kernel, by decide +kernel, by decide +kernel⟩, by decide +kernel, by decide +kernel⟩
theorem witness_WaitPollsUntilTheBusyBitIsZero :
    (busyBoth.busy .p256 = true ∧ busyBoth.busy .p160 = true) ∧ notYetSeen.busy .p256 = false ∧
      notYetSeen.busy .p160 = false := by decide +kernel

/-- Both pipelines busy, and the host about to read STATUS. -/
def polling : State := busyBoth.pushAction .wait256

theorem witness_HostTurnsLeaveRunningCommandsAlone : ∃ t,
    polling.Inv ∧ hostTurn polling = .next t ∧ polling.busy .p256 = true ∧ t.busy .p256 = true ∧
      polling.busy .p160 = true ∧ t.busy .p160 = true ∧ polling.Reads256 0x1000 ∧ polling.Writes160 0x4000 := by
  have h := busyBoth_inv
  exact ⟨_, ⟨h.mem_wf, h.legal256, h.legal160, h.window256, h.window160, h.ready256, h.ready160, h.raceFree⟩, rfl,
    rfl, rfl, rfl, rfl, by decide +kernel, .inr (by decide +kernel)⟩

/-! ### The whole machine -/

/-- A result whose state can be looked at is a next state. -/
theorem exists_next {r : Result} (h : (after r fun _ => ()).isSome = true) : ∃ t, r = .next t := by
  cases r with
  | next t => exact ⟨t, rfl⟩
  | fault _ => cases h
  | refused _ => cases h

theorem witness_StepKeepsTheInvariant : ∃ t,
    State.Inv { busyBoth with turns := [.p160] } ∧ step { busyBoth with turns := [.p160] } = .next t := by
  obtain ⟨t, ht⟩ := exists_next (r := step { busyBoth with turns := [.p160] }) (by decide +kernel)
  have h := busyBoth_inv
  exact ⟨t, ⟨h.mem_wf, h.legal256, h.legal160, h.window256, h.window160, h.ready256, h.ready160, h.raceFree⟩, ht⟩
theorem witness_BusyPipelineIsNeverStuck : busyBoth.Inv ∧ busyBoth.busy .p256 = true ∧ busyBoth.busy .p160 = true :=
  ⟨busyBoth_inv, by decide +kernel, by decide +kernel⟩
theorem witness_CommandsRunTheirListedSequences :
    (busyBoth.Inv ∧ busyBoth.seqOf .p256 = positionAfter .p256 0 ∧ 138 ≤ (sequenceOf .p256).length) ∧
      busyBoth.seqOf .p160 = positionAfter .p160 0 ∧ 184 ≤ (sequenceOf .p160).length :=
  ⟨⟨busyBoth_inv, by decide +kernel, by decide +kernel⟩, by decide +kernel, by decide +kernel⟩

theorem witness_PipelineTurnsKeepToTheirOwn : ∃ t u,
    Memory.wf busyBoth.mem ∧ pipeTurn .p256 busyBoth = .next t ∧ pipeTurn .p160 busyBoth = .next u := by
  obtain ⟨t, ht⟩ := exists_next (r := pipeTurn .p256 busyBoth) (by decide +kernel)
  obtain ⟨u, hu⟩ := exists_next (r := pipeTurn .p160 busyBoth) (by decide +kernel)
  exact ⟨t, u, busyBoth_inv.mem_wf, ht, hu⟩
theorem witness_PipelineTurnsCommute : busyBoth.Inv ∧ busyBoth.busy .p256 = true ∧ busyBoth.busy .p160 = true :=
  ⟨busyBoth_inv, by decide +kernel, by decide +kernel⟩
theorem witness_LineRoundsCommute : ∃ a b c d,
    exec (.rnd160L1 79) demo = .next a ∧ exec (.rnd160L2 0) a = .next b ∧
      exec (.rnd160L2 0) demo = .next c ∧ exec (.rnd160L1 79) c = .next d :=
  ⟨_, _, _, _, rfl, rfl, rfl, rfl⟩

/-- `demo` with another word in lane 15 of a schedule vector. -/
def otherLane : State := { demo with p256 := { demo.p256 with w := setNth demo.p256.w 0 ((same 0).set 15 1) } }

theorem witness_EngineLanesAreIndependent : ∃ t t',
    (∀ k, (nth demo.p256.w k)[(3 : Fin 16)] = (nth otherLane.p256.w k)[(3 : Fin 16)]) ∧
      (nth demo.p256.w 0)[(15 : Fin 16)] ≠ (nth otherLane.p256.w 0)[(15 : Fin 16)] ∧
      demo.p160 = otherLane.p160 ∧ demo.p256.s = otherLane.p256.s ∧
      exec (.rnd256 0) demo = .next t ∧ exec (.rnd256 0) otherLane = .next t' := by
  refine ⟨_, _, fun k => ?_, by decide +kernel, rfl, rfl, rfl, rfl⟩
  by_cases hk : k = 0
  · subst hk
    decide +kernel
  · have h := nth_setNth_ne demo.p256.w (t := 0) (u := k) ((same 0).set 15 1) hk
    exact congrArg (fun v : Vec => v[(3 : Fin 16)]) h.symm
theorem witness_Bt256NetEffect :
    Memory.wf demo.mem ∧ demo.p256.dst.Apart 32 ∧ exec .bt256 demo = .next (demo.started .p256) :=
  ⟨demo_inv.mem_wf, demo_apart256, by
    have h : (after (exec .bt256 demo) fun t => decide (t = demo.started .p256)) = some true := by decide +kernel
    revert h
    cases exec .bt256 demo <;> simp [after]⟩
theorem witness_Bt160NetEffect :
    Memory.wf demo.mem ∧ demo.p160.src.ApartOrEqual 32 ∧ demo.p160.dst.Apart 20 ∧
      exec .bt160 demo = .next (demo.started .p160) :=
  ⟨demo_inv.mem_wf, demo_padding, demo_apart160, by
    have h : (after (exec .bt160 demo) fun t => decide (t = demo.started .p160)) = some true := by decide +kernel
    revert h
    cases exec .bt160 demo <;> simp [after]⟩
theorem witness_BusyPipelinesRunToCompletion :
    busyBoth.Inv ∧ busyBoth.host.program = [] ∧ busyBoth.turns = [] := ⟨busyBoth_inv, rfl, rfl⟩

/-- Other contents of every working vector. -/
def staleW : Vector Vec 64 := Vector.replicate 64 (counting 0xDEADBEEF)
def stale5 : Vector Vec 5 := Vector.replicate 5 (counting 0xDEADBEEF)

theorem witness_StaleVectorsNeverMatter_256 : busy256.p256.seq = position 0x1 0 ∧ ∃ t t',
    pipeTurns .p256 138 busy256 = .next t ∧
      pipeTurns .p256 138
        { busy256 with p256 := { busy256.p256 with w := staleW, s := Vector.replicate 8 (counting 1) } } = .next t' := by
  obtain ⟨t, ht⟩ := exists_next (r := pipeTurns .p256 138 busy256) (by decide +kernel)
  obtain ⟨t', ht'⟩ := exists_next (r := pipeTurns .p256 138
    { busy256 with p256 := { busy256.p256 with w := staleW, s := Vector.replicate 8 (counting 1) } }) (by decide +kernel)
  exact ⟨by decide +kernel, t, t', ht, ht'⟩
theorem witness_StaleVectorsNeverMatter_160 : busy160.p160.seq = position 0x8 0 ∧ ∃ t t',
    pipeTurns .p160 184 busy160 = .next t ∧
      pipeTurns .p160 184
        { busy160 with
          p160 := { busy160.p160 with
            x := Vector.replicate 16 (counting 1), l1 := stale5, l2 := stale5, h := stale5 } } = .next t' := by
  obtain ⟨t, ht⟩ := exists_next (r := pipeTurns .p160 184 busy160) (by decide +kernel)
  obtain ⟨t', ht'⟩ := exists_next (r := pipeTurns .p160 184
    { busy160 with
      p160 := { busy160.p160 with x := Vector.replicate 16 (counting 1), l1 := stale5, l2 := stale5, h := stale5 } })
    (by decide +kernel)
  exact ⟨by decide +kernel, t, t', ht, ht'⟩

/-- The lanes in the opposite order, as in 95_test_vectors.md section 5.2. -/
def reversed : Equiv.Perm (Fin 16) := Fin.revPerm

theorem witness_LaneOrderDoesNotMatter_256 :
    Memory.wf busy256.mem ∧ busy256.p256.seq = position 0x1 0 ∧ busy256.p256.dst.Apart 4 ∧ ∃ t t',
      pipeTurns .p256 138 busy256 = .next t ∧
        pipeTurns .p256 138
          { busy256 with p256 := { busy256.p256 with
              src := busy256.p256.src.permuted reversed, dst := busy256.p256.dst.permuted reversed } } = .next t' := by
  obtain ⟨t, ht⟩ := exists_next (r := pipeTurns .p256 138 busy256) (by decide +kernel)
  obtain ⟨t', ht'⟩ := exists_next (r := pipeTurns .p256 138
    { busy256 with p256 := { busy256.p256 with
        src := busy256.p256.src.permuted reversed, dst := busy256.p256.dst.permuted reversed } }) (by decide +kernel)
  exact ⟨busy256_inv.mem_wf, by decide +kernel, by decide +kernel, t, t', ht, ht'⟩
theorem witness_LaneOrderDoesNotMatter_160 :
    Memory.wf busy160.mem ∧ busy160.p160.seq = position 0x8 0 ∧ busy160.p160.src.ApartOrEqual 32 ∧
      busy160.p160.dst.Apart 4 ∧ ∃ t t',
      pipeTurns .p160 184 busy160 = .next t ∧
        pipeTurns .p160 184
          { busy160 with p160 := { busy160.p160 with
              src := busy160.p160.src.permuted reversed, dst := busy160.p160.dst.permuted reversed } } = .next t' := by
  obtain ⟨t, ht⟩ := exists_next (r := pipeTurns .p160 184 busy160) (by decide +kernel)
  obtain ⟨t', ht'⟩ := exists_next (r := pipeTurns .p160 184
    { busy160 with p160 := { busy160.p160 with
        src := busy160.p160.src.permuted reversed, dst := busy160.p160.dst.permuted reversed } }) (by decide +kernel)
  exact ⟨busy160_inv.mem_wf, by decide +kernel, demo_padding, by decide +kernel, t, t', ht, ht'⟩

/-- P256 is busy before each of `n` steps and idle, its block pointers written, after them. -/
def busyUntil : Nat → State → Bool
  | 0, s => !s.busy .p256 && s.p256.src.toList.all fun r => r.written
  | n + 1, s =>
    s.busy .p256 &&
      match step s with
      | .next t => busyUntil n t
      | .fault _ => false
      | .refused _ => false

/-- A run that begins with a step. -/
theorem run_succ (M : Host.Core) (k : Nat) {s t : M.State} (h : M.step s = .next t) : M.run (k + 1) s = M.run k t := by
  simp only [Host.Core.run, h]

theorem busyUntil_run {n : Nat} {s : State} (h : busyUntil n s = true) :
    (∀ k, k < n → ∃ u : State, Host.Core.run core k s = .next u ∧ u.busy .p256 = true) ∧
      ∃ t : State, Host.Core.run core n s = .next t ∧ t.busy .p256 = false ∧ t.p256.src.Written := by
  induction n generalizing s with
  | zero =>
    simp only [busyUntil, Bool.and_eq_true, Bool.not_eq_true', bank_written_iff] at h
    exact ⟨fun k hk => absurd hk (Nat.not_lt_zero k), s, rfl, h.1, h.2⟩
  | succ n ih =>
    simp only [busyUntil, Bool.and_eq_true] at h
    obtain ⟨hb, hs⟩ := h
    split at hs
    next t ht =>
      have hrun : ∀ k, Host.Core.run core (k + 1) s = Host.Core.run core k t := fun k => by
        exact run_succ core k ht
      refine ⟨fun k hk => ?_, ?_⟩
      · cases k with
        | zero => exact ⟨s, rfl, hb⟩
        | succ k =>
          rw [hrun]
          exact (ih hs).1 k (by omega)
      · rw [hrun]
        exact (ih hs).2
    · cases hs
    · cases hs

/-- The free turns of a run in which only P256 has anything to do. -/
theorem witness_Bt256UnderAnyInterleaving :
    demo.Inv ∧ demo.p256.dst.Apart 32 ∧ exec .bt256 demo = .next busy256 ∧
      (∀ k, k < 138 → ∃ u : State, Host.Core.run core k busy256 = .next u ∧ u.busy .p256 = true) ∧
      ∃ t : State, Host.Core.run core 138 busy256 = .next t ∧ t.busy .p256 = false ∧ t.p256.src.Written :=
  ⟨demo_inv, demo_apart256, witness_Bt256NetEffect.2.2, busyUntil_run (by decide +kernel)⟩

end Sys2Proof.Tests
end

section
/-! The micro-operations of each pipeline, as the positions of its sequencer name them (30_encoding.md R84 to R86,
44_commands_and_sequencer.md R183, R184). -/

namespace Sys2Proof.Machine

open Sys2Proof

/-! ## The micro-operations of a pipeline, and the positions that name them -/

/-- The micro-operations that a pipeline's sequencer can name, with the index ranges of R85: the rows of R183 and R184. -/
inductive Micro : Pipe → Instr → Prop
  | idle (p : Pipe) : Micro p .idle
  | ldwBE {j : BitVec 7} (h : j.toNat ≤ 15) : Micro .p256 (.ldwBE j)
  | init256 : Micro .p256 .init256
  | exp256 {t : BitVec 7} (hlo : 16 ≤ t.toNat) (hhi : t.toNat ≤ 63) : Micro .p256 (.exp256 t)
  | rnd256 {t : BitVec 7} (h : t.toNat ≤ 63) : Micro .p256 (.rnd256 t)
  | fin256 : Micro .p256 .fin256
  | stwBE {k : BitVec 7} (h : k.toNat ≤ 7) : Micro .p256 (.stwBE k)
  | pad160 : Micro .p160 .pad160
  | ldwLE {j : BitVec 7} (h : j.toNat ≤ 15) : Micro .p160 (.ldwLE j)
  | init160 : Micro .p160 .init160
  | rnd160L1 {j : BitVec 7} (h : j.toNat ≤ 79) : Micro .p160 (.rnd160L1 j)
  | rnd160L2 {j : BitVec 7} (h : j.toNat ≤ 79) : Micro .p160 (.rnd160L2 j)
  | comb160 : Micro .p160 .comb160
  | stwLE {k : BitVec 7} (h : k.toNat ≤ 4) : Micro .p160 (.stwLE k)

@[simp] theorem position_phase (phase : BitVec 4) (idx : BitVec 7) :
    (position phase idx).extractLsb' 7 4 = phase := BitVec.extractLsb'_append_eq_left

@[simp] theorem position_idx (phase : BitVec 4) (idx : BitVec 7) :
    (position phase idx).extractLsb' 0 7 = idx := BitVec.extractLsb'_append_eq_right

/-- A pipeline decodes the position that `phase` and `idx` make to the row the two name (R84, R85). -/
theorem decodeSeq_position {p : Pipe} {phase : BitVec 4} {idx : BitVec 7} {i : Instr}
    (hb : phaseBelongs p phase = true) (hd : decodePhase phase idx = some i) (hw : i.WF) :
    decodeSeq p (position phase idx) = .ok i := by
  simp [decodeSeq, decodeQ, hb, hd, show i.wellFormed = true from hw]

/-- What a pipeline decodes, its `idx` in range (R84, R85, R86). -/
theorem decodeSeq_ok {p : Pipe} {q : BitVec 11} {i : Instr} (h : decodeSeq p q = .ok i) :
    phaseBelongs p (q.extractLsb' 7 4) = true ∧
      decodePhase (q.extractLsb' 7 4) (q.extractLsb' 0 7) = some i ∧ i.WF := by
  unfold decodeSeq decodeQ at h
  split at h
  next hb =>
    split at h
    next hd =>
      split at h
      next hw =>
        cases h
        exact ⟨hb, hd, hw⟩
      · cases h
    · cases h
  · cases h

/-- The position that names a micro-operation decodes to it (R85). -/
theorem decodeSeq_seqCode {p : Pipe} {i : Instr} (h : Micro p i) : decodeSeq p (seqCode i) = .ok i := by
  cases h with
  | idle => cases p <;> rfl
  | init256 | fin256 | pad160 | init160 | comb160 => rfl
  | ldwBE h | rnd256 h | stwBE h | ldwLE h | rnd160L1 h | rnd160L2 h | stwLE h =>
    exact decodeSeq_position rfl rfl (decide_eq_true h)
  | exp256 hlo hhi => exact decodeSeq_position rfl rfl (decide_eq_true ⟨hlo, hhi⟩)

/-- Every phase but IDLE's belongs to one pipeline only (R84). -/
theorem pipe_of_phaseBelongs {p : Pipe} {phase : BitVec 4} (h : phaseBelongs p phase = true) :
    (0 < phase.toNat → phase.toNat < 8 → p = .p256) ∧ (8 ≤ phase.toNat → p = .p160) := by
  cases p <;> simp only [phaseBelongs, decide_eq_true_eq] at h
  · exact ⟨fun _ _ => rfl, by omega⟩
  · exact ⟨by omega, fun _ => rfl⟩

/-- A pipeline's position decodes to one of its own micro-operations only (R84, R86). -/
theorem micro_of_decodeSeq {p : Pipe} {q : BitVec 11} {i : Instr} (h : decodeSeq p q = .ok i) : Micro p i := by
  obtain ⟨hb, hd, hw⟩ := decodeSeq_ok h
  generalize q.extractLsb' 7 4 = phase at hb hd
  generalize q.extractLsb' 0 7 = idx at hd
  obtain ⟨h256, h160⟩ := pipe_of_phaseBelongs hb
  unfold decodePhase at hd
  split at hd <;> rename_i hp <;> simp only [Option.ite_none_right_eq_some, Option.some.injEq, reduceCtorEq] at hd
  case h_1 => exact hd.2 ▸ .idle p
  case' h_2 | h_3 | h_4 | h_5 | h_6 | h_7 => obtain rfl := h256 (by omega) (by omega)
  case' h_8 | h_9 | h_10 | h_11 | h_12 | h_13 | h_14 => obtain rfl := h160 (by omega)
  case h_2 => subst hd; exact .ldwBE (of_decide_eq_true hw)
  case h_3 => exact hd.2 ▸ .init256
  case h_4 => subst hd; exact .exp256 (of_decide_eq_true hw).1 (of_decide_eq_true hw).2
  case h_5 => subst hd; exact .rnd256 (of_decide_eq_true hw)
  case h_6 => exact hd.2 ▸ .fin256
  case h_7 => subst hd; exact .stwBE (of_decide_eq_true hw)
  case h_8 => exact hd.2 ▸ .pad160
  case h_9 => subst hd; exact .ldwLE (of_decide_eq_true hw)
  case h_10 => exact hd.2 ▸ .init160
  case h_11 => subst hd; exact .rnd160L1 (of_decide_eq_true hw)
  case h_12 => subst hd; exact .rnd160L2 (of_decide_eq_true hw)
  case h_13 => exact hd.2 ▸ .comb160
  case h_14 => subst hd; exact .stwLE (of_decide_eq_true hw)

/-- The next index, short of the field's last. -/
theorem idx_succ {j : BitVec 7} (h : j.toNat < 127) : (j + 1).toNat = j.toNat + 1 := by
  bv_omega

/-- The micro-operation after one of a pipeline is one of that pipeline (R183, R184). -/
theorem Micro.next {p : Pipe} {i : Instr} (h : Micro p i) : Micro p (nextMicro i) := by
  cases h with simp only [nextMicro]
  | idle => exact .idle p
  | init256 => exact .exp256 (by decide) (by decide)
  | fin256 => exact .stwBE (by decide)
  | pad160 => exact .ldwLE (by decide)
  | init160 => exact .rnd160L1 (by decide)
  | comb160 => exact .stwLE (by decide)
  | ldwBE h =>
    split
    · exact .ldwBE (by rw [idx_succ] <;> omega)
    · exact .init256
  | exp256 hlo hhi =>
    split
    · exact .exp256 (by rw [idx_succ] <;> omega) (by rw [idx_succ] <;> omega)
    · exact .rnd256 (by decide)
  | rnd256 h =>
    split
    · exact .rnd256 (by rw [idx_succ] <;> omega)
    · exact .fin256
  | stwBE h =>
    split
    · exact .stwBE (by rw [idx_succ] <;> omega)
    · exact .idle _
  | ldwLE h =>
    split
    · exact .ldwLE (by rw [idx_succ] <;> omega)
    · exact .init160
  | rnd160L1 h =>
    split
    · exact .rnd160L1 (by rw [idx_succ] <;> omega)
    · exact .rnd160L2 (by decide)
  | rnd160L2 h =>
    split
    · exact .rnd160L2 (by rw [idx_succ] <;> omega)
    · exact .comb160
  | stwLE h =>
    split
    · exact .stwLE (by rw [idx_succ] <;> omega)
    · exact .idle _
end Sys2Proof.Machine
end

section
/-! Turns (10_state.md R20): what a turn runs, that the list of turns is taken one by one, and the statements O6 and O9. -/

namespace Sys2Proof.Machine

open Sys2Proof

/-! ## Whose turn it is, and what a turn runs -/

/-- The turn that the list gives is the next one. -/
theorem nextTurn_cons {s : State} {a : Agent} {rest : List Agent} (h : s.turns = a :: rest) :
    nextTurn s = (a, { s with turns := rest }) := by
  unfold nextTurn
  rw [h]

/-- A step is the turn that the list gives. -/
theorem step_cons {s : State} {a : Agent} {rest : List Agent} (h : s.turns = a :: rest) :
    step s = agentTurn a { s with turns := rest } := by
  rw [step, systemStep, nextTurn_cons h]

/-- The turn of the agent that a pipeline is. -/
@[simp] theorem agentTurn_agentOf (p : Pipe) (s : State) : agentTurn (agentOf p) s = pipeTurn p s := by cases p <;> rfl

/-- Something that decodes runs as the instruction it decodes to. -/
theorem runDecoded_ok {d : Except Reject Instr} {i : Instr} (h : d = .ok i) (s : State) : runDecoded d s = exec i s := by
  rw [h, runDecoded]

/-- A pipeline's turn runs what its position decodes to (R24). -/
theorem pipeTurn_ok {p : Pipe} {s : State} {i : Instr} (h : decodeSeq p (s.seqOf p) = .ok i) : pipeTurn p s = exec i s :=
  runDecoded_ok h s

/-- A pipeline's turn at a micro-operation's position runs the micro-operation. -/
theorem pipeTurn_at {p : Pipe} {s : State} {i : Instr} (hi : Micro p i) (h : s.seqOf p = seqCode i) :
    pipeTurn p s = exec i s :=
  pipeTurn_ok (by rw [h, decodeSeq_seqCode hi])

/-- What a pipeline's turn has run when it answers a next state: one of the pipeline's own micro-operations. -/
theorem pipeTurn_next {p : Pipe} {s t : State} (h : pipeTurn p s = .next t) : ∃ i, Micro p i ∧ exec i s = .next t := by
  unfold pipeTurn runDecoded at h
  split at h
  next i hd => exact ⟨i, micro_of_decodeSeq hd, h⟩
  · cases h

/-- Turns that answer a next state begin with one that does. -/
theorem pipeTurns_succ_next {p : Pipe} {n : Nat} {s t : State} (h : pipeTurns p (n + 1) s = .next t) :
    ∃ u, pipeTurn p s = .next u ∧ pipeTurns p n u = .next t := by
  unfold pipeTurns at h
  split at h
  next u hu => exact ⟨u, hu, h⟩
  · cases h
  · cases h

/-- The host's turn performs its next action, taken off the list. -/
theorem hostTurn_cons {s : State} {a : HostAction} {acts : List HostAction} (h : s.host.program = a :: acts) :
    hostTurn s = hostAct a { s with host := { s.host with program := acts } } := by
  unfold hostTurn
  rw [h]

/-- Settles O6: `step_cons` takes the turn, `pipeTurn_ok` or `hostTurn_cons` runs what it decodes to. -/
theorem stepRunsDecodedInstruction : Obligations.StepRunsDecodedInstruction := by
  refine ⟨?_, ?_, ?_, ?_⟩
  · intro s rest i ht hd
    rw [step_cons ht]
    exact pipeTurn_ok (p := .p256) hd
  · intro s rest i ht hd
    rw [step_cons ht]
    exact pipeTurn_ok (p := .p160) hd
  · intro s rest w acts i ht ha hd
    rw [step_cons ht]
    exact (hostTurn_cons (s := { s with turns := rest }) ha).trans (runDecoded_ok hd _)
  · intro s rest r acts i ht ha hd
    rw [step_cons ht]
    exact (hostTurn_cons (s := { s with turns := rest }) ha).trans (runDecoded_ok hd _)

/-! ## Micro-operations do not look at the list of turns -/

/-- The state with another list of turns. -/
def State.withTurns (s : State) (ts : List Agent) : State := { s with turns := ts }

section
variable (s : State) (ts : List Agent)

@[simp] theorem State.withTurns_p256 : (s.withTurns ts).p256 = s.p256 := rfl
@[simp] theorem State.withTurns_p160 : (s.withTurns ts).p160 = s.p160 := rfl
@[simp] theorem State.withTurns_lanesValid (b : Bank) (off n : Nat) :
    (s.withTurns ts).lanesValid b off n = s.lanesValid b off n := rfl
@[simp] theorem State.withTurns_gather (o : ByteOrder) (b : Bank) (off : Nat) :
    (s.withTurns ts).gather o b off = s.gather o b off := rfl
@[simp] theorem State.withTurns_withW (t : Nat) (v : Vec) :
    (s.withTurns ts).withW t v = (s.withW t v).withTurns ts := rfl
@[simp] theorem State.withTurns_withS (v : Vector Vec 8) : (s.withTurns ts).withS v = (s.withS v).withTurns ts := rfl
@[simp] theorem State.withTurns_withX (j : Nat) (v : Vec) :
    (s.withTurns ts).withX j v = (s.withX j v).withTurns ts := rfl
@[simp] theorem State.withTurns_withL1 (v : Vector Vec 5) : (s.withTurns ts).withL1 v = (s.withL1 v).withTurns ts := rfl
@[simp] theorem State.withTurns_withL2 (v : Vector Vec 5) : (s.withTurns ts).withL2 v = (s.withL2 v).withTurns ts := rfl
@[simp] theorem State.withTurns_withH (v : Vector Vec 5) : (s.withTurns ts).withH v = (s.withH v).withTurns ts := rfl
@[simp] theorem State.withTurns_scatter (p : Pipe) (ws : List LaneWrite) :
    (s.withTurns ts).scatter p ws = (s.scatter p ws).withTurns ts := by cases p <;> rfl
@[simp] theorem State.withTurns_withSeq (p : Pipe) (q : BitVec 11) :
    (s.withTurns ts).withSeq p q = (s.withSeq p q).withTurns ts := by cases p <;> rfl
@[simp] theorem State.withTurns_seqOf (p : Pipe) : (s.withTurns ts).seqOf p = s.seqOf p := by cases p <;> rfl

end

/-- A result with its next state, if there is one, changed. -/
def mapNext (f : State → State) : Result → Result
  | .next t => .next (f t)
  | .fault r => .fault r
  | .refused r => .refused r

@[simp] theorem mapNext_next (f : State → State) (t : State) : mapNext f (.next t) = .next (f t) := rfl
@[simp] theorem mapNext_fault (f : State → State) (r : Fault) : mapNext f (.fault r) = .fault r := rfl
@[simp] theorem mapNext_refused (f : State → State) (r : Refusal) : mapNext f (.refused r) = .refused r := rfl
@[simp] theorem mapNext_ite (f : State → State) (c : Prop) [Decidable c] (a b : Result) :
    mapNext f (if c then a else b) = if c then mapNext f a else mapNext f b := apply_ite _ _ _ _

/-- A micro-operation neither reads nor changes the list of turns. -/
theorem exec_withTurns {p : Pipe} {i : Instr} (hi : Micro p i) (s : State) (ts : List Agent) :
    exec i (s.withTurns ts) = mapNext (·.withTurns ts) (exec i s) := by
  cases hi with simp only [exec]
  | idle => rfl
  | ldwBE => simp [execLdwBE]
  | init256 => simp [execInit256]
  | exp256 => simp [execExp256]
  | rnd256 => simp [execRnd256]
  | fin256 => simp [execFin256]
  | stwBE => simp [execStwBE]
  | pad160 => simp [execPad160]
  | ldwLE => simp [execLdwLE]
  | init160 => simp [execInit160]
  | rnd160L1 => simp [execRnd160L1]
  | rnd160L2 => simp [execRnd160L2]
  | comb160 => simp [execComb160]
  | stwLE => simp [execStwLE]

/-- A run goes on from a step that answers a next state. -/
theorem run_next (M : Host.Core) (k : Nat) {s t : M.State} (h : M.step s = .next t) : M.run (k + 1) s = M.run k t := by
  simp only [Host.Core.run, h]

/-- A run stops at a step that faults. -/
theorem run_fault (M : Host.Core) (k : Nat) {s : M.State} {r : M.Fault} (h : M.step s = .fault r) :
    M.run (k + 1) s = .fault r := by
  simp only [Host.Core.run, h]

/-- A run stops at a step that is refused. -/
theorem run_refused (M : Host.Core) (k : Nat) {s : M.State} {r : M.Refusal} (h : M.step s = .refused r) :
    M.run (k + 1) s = .refused r := by
  simp only [Host.Core.run, h]

/-- A pipeline's turn neither reads nor changes the list of turns. -/
theorem pipeTurn_withTurns (p : Pipe) (s : State) (ts : List Agent) :
    pipeTurn p (s.withTurns ts) = mapNext (·.withTurns ts) (pipeTurn p s) := by
  unfold pipeTurn
  rw [State.withTurns_seqOf]
  cases hd : decodeSeq p (s.seqOf p) with
  | ok i => exact exec_withTurns (micro_of_decodeSeq hd) s ts
  | error r => rfl

/-- Settles O9, by induction on the number of turns: a step given a pipeline's turn is that turn, which leaves the turns
still to come as they are. -/
theorem runOfTurnsIsPipeTurns : Obligations.RunOfTurnsIsPipeTurns := by
  intro p n s
  change Host.Core.run core n (s.withTurns (List.replicate n (agentOf p))) = pipeTurns p n (s.withTurns [])
  induction n generalizing s with
  | zero => rfl
  | succ n ih =>
    have hstep : core.step (s.withTurns (List.replicate (n + 1) (agentOf p))) =
        mapNext (·.withTurns (List.replicate n (agentOf p))) (pipeTurn p s) := by
      rw [← pipeTurn_withTurns, ← agentTurn_agentOf]
      exact step_cons (s := s.withTurns (List.replicate (n + 1) (agentOf p))) List.replicate_succ
    rw [pipeTurns, pipeTurn_withTurns]
    cases hr : pipeTurn p s with rw [hr] at hstep
    | next t => exact (run_next core n hstep).trans (ih t)
    | fault r => exact run_fault core n hstep
    | refused r => exact run_refused core n hstep

end Sys2Proof.Machine
end

section
/-! Two runs of a command that differ in what stands in the working vectors at its start (10_state.md R31), and the statement
O52. -/

namespace Sys2Proof.Machine

open Sys2Proof

/-! ## Two runs of one pipeline's turns in lockstep -/

/-- After a micro-operation, the sequencer is at the next position (R183, R184). -/
theorem exec_seqOf {p : Pipe} {i : Instr} (hi : Micro p i) {s t : State} (hs : s.seqOf p = seqCode i)
    (h : exec i s = .next t) : t.seqOf p = seqCode (nextMicro i) := by
  cases hi with
  | idle => cases h; exact hs
  | init256 | fin256 | init160 | comb160 => cases h; rfl
  | ldwBE => obtain ⟨-, -, rfl⟩ := execLdwBE_next h; rfl
  | exp256 => obtain ⟨-, -, rfl⟩ := execExp256_next h; rfl
  | rnd256 => obtain ⟨-, rfl⟩ := execRnd256_next h; rfl
  | stwBE => obtain ⟨-, -, rfl⟩ := execStwBE_next h; rfl
  | pad160 => obtain ⟨-, rfl⟩ := execPad160_next h; rfl
  | ldwLE => obtain ⟨-, -, rfl⟩ := execLdwLE_next h; rfl
  | rnd160L1 => obtain ⟨-, rfl⟩ := execRnd160L1_next h; rfl
  | rnd160L2 => obtain ⟨-, rfl⟩ := execRnd160L2_next h; rfl
  | stwLE => obtain ⟨-, -, rfl⟩ := execStwLE_next h; rfl

/-- A relation that each micro-operation hands on to the next one holds after any number of turns, in two runs that start
at one micro-operation's position. -/
theorem pipeTurns_lockstep {p : Pipe} {R : Instr → State → State → Prop}
    (hR : ∀ i s s' t t', Micro p i → R i s s' → exec i s = .next t → exec i s' = .next t' → R (nextMicro i) t t')
    (n : Nat) {i : Instr} (hi : Micro p i) {s s' t t' : State} (hs : s.seqOf p = seqCode i) (hs' : s'.seqOf p = seqCode i)
    (h0 : R i s s') (h : pipeTurns p n s = .next t) (h' : pipeTurns p n s' = .next t') :
    R (nextMicro^[n] i) t t' := by
  induction n generalizing i s s' with
  | zero =>
    cases h
    cases h'
    exact h0
  | succ n ih =>
    obtain ⟨u, hu, h⟩ := pipeTurns_succ_next h
    obtain ⟨u', hu', h'⟩ := pipeTurns_succ_next h'
    rw [pipeTurn_at hi hs] at hu
    rw [pipeTurn_at hi hs'] at hu'
    exact ih hi.next (exec_seqOf hi hs hu) (exec_seqOf hi hs' hu') (hR i s s' u u' hi h0 hu hu') h h'

/-- The two files hold the same vectors in their first `m` entries. -/
def SameFirst {n : Nat} (m : Nat) (v v' : Vector Vec n) : Prop := ∀ k, k < m → nth v k = nth v' k

/-- Files that agree in all their entries are the same file. -/
theorem SameFirst.eq {n : Nat} {v v' : Vector Vec n} (h : SameFirst n v v') : v = v' := file_ext h

/-- Setting the entry after those that agree makes one more entry agree. -/
theorem SameFirst.setNth {n m : Nat} {v v' : Vector Vec n} (h : SameFirst m v v') (hm : m < n) {x x' : Vec}
    (hx : x = x') : SameFirst (m + 1) (setNth v m x) (setNth v' m x') := by
  intro k hk
  subst hx
  by_cases hkm : k = m
  · rw [hkm, nth_setNth_self _ _ hm, nth_setNth_self _ _ hm]
  · rw [nth_setNth_ne _ _ hkm, nth_setNth_ne _ _ hkm, h k (by omega)]

/-! ## BT256: the working vectors that the command has set itself -/

/-- The state with other working vectors in P256. -/
def State.withVectors256 (s : State) (w : Vector Vec 64) (v : Vector Vec 8) : State :=
  { s with p256 := { s.p256 with w := w, s := v } }

/-- How many schedule vectors BT256 has set when it comes to this micro-operation (R183). -/
def wordsSet256 : Instr → Nat
  | .ldwBE j => j.toNat
  | .init256 => 16
  | .exp256 t => t.toNat
  | _ => 64

/-- Whether BT256 has set the state vectors when it comes to this micro-operation (R183). -/
def stateSet256 : Instr → Bool
  | .ldwBE _ => false
  | .init256 => false
  | _ => true

/-- Two states before the micro-operation `i` of BT256 that differ at most in working vectors that the command has not set
by then. -/
def Agree256 (i : Instr) (s s' : State) : Prop :=
  ∃ w v, s' = s.withVectors256 w v ∧ SameFirst (wordsSet256 i) s.p256.w w ∧ (stateSet256 i = true → s.p256.s = v)

theorem wordsSet256_next_ldwBE {j : BitVec 7} (h : j.toNat ≤ 15) :
    wordsSet256 (nextMicro (.ldwBE j)) = j.toNat + 1 := by
  simp only [nextMicro]
  split
  · exact idx_succ (by omega)
  · simp only [wordsSet256]; omega

theorem wordsSet256_next_exp256 {t : BitVec 7} (h : t.toNat ≤ 63) :
    wordsSet256 (nextMicro (.exp256 t)) = t.toNat + 1 := by
  simp only [nextMicro]
  split
  · exact idx_succ (by omega)
  · simp only [wordsSet256]; omega

theorem stateSet256_next_ldwBE (j : BitVec 7) : stateSet256 (nextMicro (.ldwBE j)) = false := by
  simp only [nextMicro]
  split <;> rfl

/-- `EXP256 t` makes the same vector from files that agree in the entries before `t` (R125). -/
theorem SameFirst.expand256 {n m : Nat} {w w' : Vector Vec n} (h : SameFirst m w w') (hm : 16 ≤ m) :
    expand256 (nth w (m - 2)) (nth w (m - 7)) (nth w (m - 15)) (nth w (m - 16)) =
      expand256 (nth w' (m - 2)) (nth w' (m - 7)) (nth w' (m - 15)) (nth w' (m - 16)) := by
  rw [h (m - 2) (by omega), h (m - 7) (by omega), h (m - 15) (by omega), h (m - 16) (by omega)]

/-- Two states before a micro-operation of BT256 by which the command has set every working vector are the same. -/
theorem Agree256.eq {i : Instr} {s s' : State} (h : Agree256 i s s') (hw : wordsSet256 i = 64)
    (hv : stateSet256 i = true) : s = s' := by
  obtain ⟨w, v, rfl, hsw, hsv⟩ := h
  rw [hw] at hsw
  obtain rfl := hsw.eq
  obtain rfl := hsv hv
  rfl

theorem Agree256.refl (i : Instr) (s : State) : Agree256 i s s :=
  ⟨s.p256.w, s.p256.s, rfl, fun _ _ => rfl, fun _ => rfl⟩

/-- A micro-operation of BT256 reads only working vectors that the command has set, so it keeps two states alike. -/
theorem Agree256.exec {i : Instr} {s s' t t' : State} (hi : Micro .p256 i) (ha : Agree256 i s s')
    (h : exec i s = .next t) (h' : exec i s' = .next t') : Agree256 (nextMicro i) t t' := by
  cases hi with
  | idle | rnd256 | fin256 | stwBE =>
    obtain rfl := ha.eq rfl rfl
    cases h.symm.trans h'
    exact .refl _ _
  | init256 =>
    obtain ⟨w, v, rfl, hw, -⟩ := ha
    cases h; cases h'
    exact ⟨w, _, rfl, hw, fun _ => rfl⟩
  | @ldwBE j hj =>
    obtain ⟨w, v, rfl, hw, -⟩ := ha
    obtain ⟨-, -, rfl⟩ := execLdwBE_next h
    obtain ⟨-, -, rfl⟩ := execLdwBE_next h'
    refine ⟨_, v, rfl, ?_, by simp [stateSet256_next_ldwBE]⟩
    rw [wordsSet256_next_ldwBE hj]
    exact hw.setNth (m := j.toNat) (by omega) rfl
  | @exp256 k hlo hhi =>
    obtain ⟨w, v, rfl, hw, hv⟩ := ha
    obtain ⟨-, -, rfl⟩ := execExp256_next h
    obtain ⟨-, -, rfl⟩ := execExp256_next h'
    refine ⟨_, v, rfl, ?_, fun _ => hv rfl⟩
    rw [wordsSet256_next_exp256 hhi]
    exact hw.setNth (m := k.toNat) (by omega) (hw.expand256 hlo)

/-- The micro-operation after the 138 of BT256 (R183). -/
theorem nextMicro_iterate_bt256 : nextMicro^[138] (.ldwBE 0) = .idle := by decide +kernel

/-- BT256 ends in the same state whatever P256's working vectors hold at its start (R31). -/
theorem pipeTurns256_withVectors {s t t' : State} {w : Vector Vec 64} {v : Vector Vec 8}
    (hs : s.p256.seq = position 0x1 0) (h : pipeTurns .p256 138 s = .next t)
    (h' : pipeTurns .p256 138 (s.withVectors256 w v) = .next t') : t = t' := by
  have h0 : Agree256 (.ldwBE 0) s (s.withVectors256 w v) :=
    ⟨w, v, rfl, fun k hk => absurd hk (Nat.not_lt_zero k), nofun⟩
  have hend := pipeTurns_lockstep (R := Agree256) (fun _ _ _ _ _ hi ha => ha.exec hi) 138 (.ldwBE (by decide))
    (s' := s.withVectors256 w v) hs hs h0 h h'
  rw [nextMicro_iterate_bt256] at hend
  exact hend.eq rfl rfl

/-! ## BT160: the working vectors that the command has set itself -/

/-- The state with other working vectors in P160. -/
def State.withVectors160 (s : State) (x : Vector Vec 16) (l1 l2 h : Vector Vec 5) : State :=
  { s with p160 := { s.p160 with x := x, l1 := l1, l2 := l2, h := h } }

/-- How many of the vectors `X` BT160 has set when it comes to this micro-operation (R184). -/
def wordsSet160 : Instr → Nat
  | .pad160 => 0
  | .ldwLE j => j.toNat
  | _ => 16

/-- Whether BT160 has set both lines when it comes to this micro-operation (R184). -/
def linesSet160 : Instr → Bool
  | .pad160 => false
  | .ldwLE _ => false
  | .init160 => false
  | _ => true

/-- Whether BT160 has set `H` when it comes to this micro-operation (R184). -/
def digestSet160 : Instr → Bool
  | .stwLE _ => true
  | .idle => true
  | _ => false

/-- Two states before the micro-operation `i` of BT160 that differ at most in working vectors that the command has not set
by then. -/
def Agree160 (i : Instr) (s s' : State) : Prop :=
  ∃ x l1 l2 h, s' = s.withVectors160 x l1 l2 h ∧ SameFirst (wordsSet160 i) s.p160.x x ∧
    (linesSet160 i = true → s.p160.l1 = l1 ∧ s.p160.l2 = l2) ∧ (digestSet160 i = true → s.p160.h = h)

theorem wordsSet160_next_ldwLE {j : BitVec 7} (h : j.toNat ≤ 15) :
    wordsSet160 (nextMicro (.ldwLE j)) = j.toNat + 1 := by
  simp only [nextMicro]
  split
  · exact idx_succ (by omega)
  · simp only [wordsSet160]; omega

/-- The lines are set by `INIT160` only (R184). -/
theorem linesSet160_next {i : Instr} (hi : Micro .p160 i) (h : linesSet160 (nextMicro i) = true) :
    i = .init160 ∨ linesSet160 i = true := by
  cases hi with
  | pad160 => cases h
  | ldwLE =>
    simp only [nextMicro] at h
    split at h <;> cases h
  | init160 => exact .inl rfl
  | idle | rnd160L1 | rnd160L2 | comb160 | stwLE => exact .inr rfl

/-- `H` is set by `COMB160` only (R184). -/
theorem digestSet160_next {i : Instr} (hi : Micro .p160 i) (h : digestSet160 (nextMicro i) = true) :
    i = .comb160 ∨ digestSet160 i = true := by
  cases hi with
  | pad160 | init160 => cases h
  | ldwLE | rnd160L1 | rnd160L2 =>
    simp only [nextMicro] at h
    split at h <;> cases h
  | comb160 => exact .inl rfl
  | idle | stwLE => exact .inr rfl

/-- Two states before a micro-operation of BT160 by which the command has set every working vector are the same. -/
theorem Agree160.eq {i : Instr} {s s' : State} (ha : Agree160 i s s') (hx : wordsSet160 i = 16)
    (hl : linesSet160 i = true) (hh : digestSet160 i = true) : s = s' := by
  obtain ⟨x, l1, l2, h, rfl, hsx, hsl, hsh⟩ := ha
  rw [hx] at hsx
  obtain rfl := hsx.eq
  obtain ⟨rfl, rfl⟩ := hsl hl
  obtain rfl := hsh hh
  rfl

theorem Agree160.refl (i : Instr) (s : State) : Agree160 i s s :=
  ⟨s.p160.x, s.p160.l1, s.p160.l2, s.p160.h, rfl, fun _ _ => rfl, fun _ => ⟨rfl, rfl⟩, fun _ => rfl⟩

/-- The lanes' writes do not look at P160's working vectors. -/
theorem State.withVectors160_scatter (s : State) (x : Vector Vec 16) (l1 l2 h : Vector Vec 5) (ws : List LaneWrite) :
    (s.withVectors160 x l1 l2 h).scatter .p160 ws = (s.scatter .p160 ws).withVectors160 x l1 l2 h := rfl

/-- A micro-operation of BT160 reads only working vectors that the command has set, so it keeps two states alike. -/
theorem Agree160.exec {i : Instr} {s s' t t' : State} (hi : Micro .p160 i) (ha : Agree160 i s s')
    (h : exec i s = .next t) (h' : exec i s' = .next t') : Agree160 (nextMicro i) t t' := by
  have hlines := linesSet160_next hi
  have hdigest := digestSet160_next hi
  cases hi with
  | idle | stwLE =>
    obtain rfl := ha.eq rfl rfl rfl
    cases h.symm.trans h'
    exact .refl _ _
  | pad160 =>
    obtain ⟨x, l1, l2, d, rfl, -, -, -⟩ := ha
    obtain ⟨-, rfl⟩ := execPad160_next h
    obtain ⟨-, rfl⟩ := execPad160_next h'
    refine ⟨x, l1, l2, d, ?_, fun k hk => absurd hk (Nat.not_lt_zero k), nofun, nofun⟩
    rw [State.withVectors160_scatter]
    rfl
  | @ldwLE j hj =>
    obtain ⟨x, l1, l2, d, rfl, hx, hl, hd⟩ := ha
    obtain ⟨-, -, rfl⟩ := execLdwLE_next h
    obtain ⟨-, -, rfl⟩ := execLdwLE_next h'
    refine ⟨_, l1, l2, d, rfl, ?_, fun he => hl ((hlines he).resolve_left nofun),
      fun he => hd ((hdigest he).resolve_left nofun)⟩
    rw [wordsSet160_next_ldwLE hj]
    exact hx.setNth (m := j.toNat) (by omega) rfl
  | init160 =>
    obtain ⟨x, l1, l2, d, rfl, hx, -, -⟩ := ha
    cases h; cases h'
    exact ⟨x, _, _, d, rfl, hx, fun _ => ⟨rfl, rfl⟩, nofun⟩
  | rnd160L1 =>
    obtain ⟨x, l1, l2, d, rfl, hx, hl, hd⟩ := ha
    obtain ⟨-, rfl⟩ := execRnd160L1_next h
    obtain ⟨-, rfl⟩ := execRnd160L1_next h'
    obtain rfl := hx.eq
    obtain ⟨rfl, rfl⟩ := hl rfl
    exact ⟨_, _, _, d, rfl, fun _ _ => rfl, fun _ => ⟨rfl, rfl⟩, fun he => hd ((hdigest he).resolve_left nofun)⟩
  | rnd160L2 =>
    obtain ⟨x, l1, l2, d, rfl, hx, hl, hd⟩ := ha
    obtain ⟨-, rfl⟩ := execRnd160L2_next h
    obtain ⟨-, rfl⟩ := execRnd160L2_next h'
    obtain rfl := hx.eq
    obtain ⟨rfl, rfl⟩ := hl rfl
    exact ⟨_, _, _, d, rfl, fun _ _ => rfl, fun _ => ⟨rfl, rfl⟩, fun he => hd ((hdigest he).resolve_left nofun)⟩
  | comb160 =>
    obtain ⟨x, l1, l2, d, rfl, hx, hl, -⟩ := ha
    cases h; cases h'
    obtain rfl := hx.eq
    obtain ⟨rfl, rfl⟩ := hl rfl
    exact ⟨_, _, _, _, rfl, fun _ _ => rfl, fun _ => ⟨rfl, rfl⟩, fun _ => rfl⟩

/-- The micro-operation after the 184 of BT160 (R184). -/
theorem nextMicro_iterate_bt160 : nextMicro^[184] .pad160 = .idle := by decide +kernel

/-- BT160 ends in the same state whatever P160's working vectors hold at its start (R31). -/
theorem pipeTurns160_withVectors {s t t' : State} {x : Vector Vec 16} {l1 l2 d : Vector Vec 5}
    (hs : s.p160.seq = position 0x8 0) (h : pipeTurns .p160 184 s = .next t)
    (h' : pipeTurns .p160 184 (s.withVectors160 x l1 l2 d) = .next t') : t = t' := by
  have h0 : Agree160 .pad160 s (s.withVectors160 x l1 l2 d) :=
    ⟨x, l1, l2, d, rfl, fun k hk => absurd hk (Nat.not_lt_zero k), nofun, nofun⟩
  have hend := pipeTurns_lockstep (R := Agree160) (fun _ _ _ _ _ hi ha => ha.exec hi) 184 .pad160
    (s' := s.withVectors160 x l1 l2 d) hs hs h0 h h'
  rw [nextMicro_iterate_bt160] at hend
  exact hend.eq rfl rfl rfl

/-- Settles O52: a command sets each working vector before any of its micro-operations reads it, so at its end, when it has
set them all, two runs that began with other contents are in the same state. -/
theorem staleVectorsNeverMatter : Obligations.StaleVectorsNeverMatter :=
  ⟨fun _ _ _ _ _ hs h h' => pipeTurns256_withVectors hs h h',
    fun _ _ _ _ _ _ _ hs h h' => pipeTurns160_withVectors hs h h'⟩

end Sys2Proof.Machine
end

section
/-! What each micro-operation leaves alone (10_state.md R21, 20_memory.md R53, 60_exceptions.md R206), and the
statement O46. -/

namespace Sys2Proof.Machine

open Sys2Proof

/-- A longer range around it covers what a range covers. -/
theorem Covers.mono {b : Bank} {off n off' m a : Nat} (h : b.Covers off n a) (h1 : off' ≤ off)
    (h2 : off + n ≤ off' + m) : b.Covers off' m a := by
  obtain ⟨i, hlo, hhi⟩ := h
  exact ⟨i, by omega, by omega⟩

/-- The lanes' writes leave every byte that no lane covers. -/
theorem read_scatter_laneWrites {s : State} (hm : Memory.wf s.mem) (p : Pipe) {b : Bank} {off n a : Nat}
    {bytes : Fin 16 → List Byte} (hn : ∀ i, (bytes i).length = n) (ha : ¬ b.Covers off n a) :
    Memory.read (s.scatter p (laneWrites b off bytes)).mem a = Memory.read s.mem a := by
  have hw : a ∉ writtenAddrs (laneWrites b off bytes) := (mem_writtenAddrs_laneWrites hn).not.2 ha
  cases p <;> exact (Memory.read_storeLanes hm.1 _ _ a).trans (if_neg hw)

/-- A micro-operation of P256 leaves P256's pointers, P160, the host, the platform and the turns alone (R21, R206). -/
theorem exec256_frame {i : Instr} (hi : Micro .p256 i) {s t : State} (h : exec i s = .next t) :
    t.p160 = s.p160 ∧ t.host = s.host ∧ t.platform = s.platform ∧ t.turns = s.turns ∧ t.draws = s.draws ∧
      t.p256.src = s.p256.src ∧ t.p256.dst = s.p256.dst := by
  cases hi with
  | idle | init256 | fin256 => cases h; simp
  | ldwBE => obtain ⟨-, -, rfl⟩ := execLdwBE_next h; simp
  | exp256 => obtain ⟨-, -, rfl⟩ := execExp256_next h; simp
  | rnd256 => obtain ⟨-, rfl⟩ := execRnd256_next h; simp
  | stwBE => obtain ⟨-, -, rfl⟩ := execStwBE_next h; simp

/-- A micro-operation of P256 writes no byte outside the digest buffers (R53). -/
theorem exec256_read {i : Instr} (hi : Micro .p256 i) {s t : State} (hm : Memory.wf s.mem) (h : exec i s = .next t)
    {a : Nat} (ha : ¬ s.Writes256 a) : Memory.read t.mem a = Memory.read s.mem a := by
  cases hi with
  | idle | init256 | fin256 => cases h; rfl
  | ldwBE => obtain ⟨-, -, rfl⟩ := execLdwBE_next h; rfl
  | exp256 => obtain ⟨-, -, rfl⟩ := execExp256_next h; rfl
  | rnd256 => obtain ⟨-, rfl⟩ := execRnd256_next h; rfl
  | stwBE =>
    obtain ⟨hk, -, rfl⟩ := execStwBE_next h
    simp only [State.advance_eq, State.withSeq_p256_mem]
    exact read_scatter_laneWrites hm .p256 (fun _ => bytesOfWord_length _ _)
      fun hc => ha (Covers.mono hc (by omega) (by omega))

/-- A micro-operation of P160 leaves P160's pointers, P256, the host, the platform and the turns alone (R21, R206). -/
theorem exec160_frame {i : Instr} (hi : Micro .p160 i) {s t : State} (h : exec i s = .next t) :
    t.p256 = s.p256 ∧ t.host = s.host ∧ t.platform = s.platform ∧ t.turns = s.turns ∧ t.draws = s.draws ∧
      t.p160.src = s.p160.src ∧ t.p160.dst = s.p160.dst := by
  cases hi with
  | idle | init160 | comb160 => cases h; simp
  | pad160 => obtain ⟨-, rfl⟩ := execPad160_next h; simp
  | ldwLE => obtain ⟨-, -, rfl⟩ := execLdwLE_next h; simp
  | rnd160L1 => obtain ⟨-, rfl⟩ := execRnd160L1_next h; simp
  | rnd160L2 => obtain ⟨-, rfl⟩ := execRnd160L2_next h; simp
  | stwLE => obtain ⟨-, -, rfl⟩ := execStwLE_next h; simp

/-- A micro-operation of P160 writes no byte outside the padding ranges and the digest buffers (R53). -/
theorem exec160_read {i : Instr} (hi : Micro .p160 i) {s t : State} (hm : Memory.wf s.mem) (h : exec i s = .next t)
    {a : Nat} (ha : ¬ s.Writes160 a) : Memory.read t.mem a = Memory.read s.mem a := by
  cases hi with
  | idle | init160 | comb160 => cases h; rfl
  | pad160 =>
    obtain ⟨-, rfl⟩ := execPad160_next h
    simp only [State.advance_eq, State.withSeq_p160_mem]
    exact read_scatter_laneWrites hm .p160 (fun _ => rfl) fun hc => ha (.inl hc)
  | ldwLE => obtain ⟨-, -, rfl⟩ := execLdwLE_next h; rfl
  | rnd160L1 => obtain ⟨-, rfl⟩ := execRnd160L1_next h; rfl
  | rnd160L2 => obtain ⟨-, rfl⟩ := execRnd160L2_next h; rfl
  | stwLE =>
    obtain ⟨hk, -, rfl⟩ := execStwLE_next h
    simp only [State.advance_eq, State.withSeq_p160_mem]
    exact read_scatter_laneWrites hm .p160 (fun _ => bytesOfWord_length _ _)
      fun hc => ha (.inr (Covers.mono hc (by omega) (by omega)))

/-- Settles O46: a turn that answers a next state has run one of the pipeline's own micro-operations, and each of these
keeps to the pipeline and its footprint. -/
theorem pipelineTurnsKeepToTheirOwn : Obligations.PipelineTurnsKeepToTheirOwn := by
  constructor
  · intro s t hm h
    obtain ⟨i, hi, h⟩ := pipeTurn_next h
    obtain ⟨h160, hhost, hplat, hturns, hdraws, hsrc, hdst⟩ := exec256_frame hi h
    exact ⟨h160, hhost, hplat, hturns, hdraws, hsrc, hdst, fun _ => exec256_read hi hm h⟩
  · intro s t hm h
    obtain ⟨i, hi, h⟩ := pipeTurn_next h
    obtain ⟨h256, hhost, hplat, hturns, hdraws, hsrc, hdst⟩ := exec160_frame hi h
    exact ⟨h256, hhost, hplat, hturns, hdraws, hsrc, hdst, fun _ => exec160_read hi hm h⟩

end Sys2Proof.Machine
end

section
/-! Lanes (10_state.md R27), and the statement O49. -/

namespace Sys2Proof.Machine

open Sys2Proof

/-- Two files of vectors that hold the same words in one lane. -/
def SameLane {n : Nat} (i : Fin 16) (v v' : Vector Vec n) : Prop := ∀ k, (nth v k)[i] = (nth v' k)[i]

/-- Two states whose working vectors hold the same words in one lane. -/
structure State.AlikeIn (i : Fin 16) (s s' : State) : Prop where
  words256 : SameLane i s.p256.w s'.p256.w
  state256 : SameLane i s.p256.s s'.p256.s
  words160 : SameLane i s.p160.x s'.p160.x
  line1 : SameLane i s.p160.l1 s'.p160.l1
  line2 : SameLane i s.p160.l2 s'.p160.l2
  digest160 : SameLane i s.p160.h s'.p160.h

theorem SameLane.refl {n : Nat} (i : Fin 16) (v : Vector Vec n) : SameLane i v v := fun _ => rfl

/-- It is enough to compare the entries that exist. -/
theorem sameLane_of_lt {n : Nat} {i : Fin 16} {v v' : Vector Vec n}
    (h : ∀ k, (hk : k < n) → v[k][i] = v'[k][i]) : SameLane i v v' := by
  intro k
  by_cases hk : k < n
  · rw [nth_eq _ hk, nth_eq _ hk, h k hk]
  · simp [nth, hk]

theorem SameLane.setNth {n : Nat} {i : Fin 16} {v v' : Vector Vec n} (h : SameLane i v v') (t : Nat) {x x' : Vec}
    (hx : x[i] = x'[i]) : SameLane i (setNth v t x) (setNth v' t x') := by
  intro k
  by_cases hk : k = t
  · subst hk
    by_cases hlt : k < n
    · rw [nth_setNth_self _ _ hlt, nth_setNth_self _ _ hlt, hx]
    · simp [nth, hlt]
  · rw [nth_setNth_ne _ _ hk, nth_setNth_ne _ _ hk, h k]

/-- `EXP256` works lane by lane (R125). -/
theorem expand256_lane {i : Fin 16} {w2 w7 w15 w16 u2 u7 u15 u16 : Vec} (h2 : w2[i] = u2[i]) (h7 : w7[i] = u7[i])
    (h15 : w15[i] = u15[i]) (h16 : w16[i] = u16[i]) :
    (expand256 w2 w7 w15 w16)[i] = (expand256 u2 u7 u15 u16)[i] := by
  simp_all [expand256]

/-- A round of the 256-bit engine works lane by lane (R126). -/
theorem SameLane.round256 {i : Fin 16} {s s' : Vector Vec 8} {w w' : Vec} (k : Word) (hs : SameLane i s s')
    (hw : w[i] = w'[i]) : SameLane i (round256 k w s) (round256 k w' s') := by
  refine sameLane_of_lt fun j hj => ?_
  have h0 := hs 0; have h1 := hs 1; have h2 := hs 2; have h3 := hs 3
  have h4 := hs 4; have h5 := hs 5; have h6 := hs 6; have h7 := hs 7
  simp only [Fin.getElem_fin] at *
  interval_cases j <;> simp [Machine.round256, *]

/-- A round of a line of the 160-bit engine works lane by lane (R148, R149). -/
theorem SameLane.round160 {i : Fin 16} {l l' : Vector Vec 5} {x x' : Vec} (f : Word → Word → Word → Word) (k : Word)
    (r : Nat) (hl : SameLane i l l') (hx : x[i] = x'[i]) :
    SameLane i (round160 f x k r l) (round160 f x' k r l') := by
  refine sameLane_of_lt fun j hj => ?_
  have h0 := hl 0; have h1 := hl 1; have h2 := hl 2; have h3 := hl 3; have h4 := hl 4
  simp only [Fin.getElem_fin] at *
  interval_cases j <;> simp [Machine.round160, *]

/-- The final addition of the 256-bit engine works lane by lane (R127). -/
theorem SameLane.final256 {i : Fin 16} {s s' : Vector Vec 8} (hs : SameLane i s s') :
    SameLane i (final256 s) (final256 s') := by
  refine sameLane_of_lt fun j hj => ?_
  have h := hs j
  rw [nth_eq _ hj, nth_eq _ hj] at h
  simp_all [Machine.final256]

/-- The combination of the two lines works lane by lane (R150). -/
theorem SameLane.combine160 {i : Fin 16} {l l' r r' : Vector Vec 5} (hl : SameLane i l l') (hr : SameLane i r r') :
    SameLane i (combine160 l r) (combine160 l' r') := by
  refine sameLane_of_lt fun j hj => ?_
  have h1 := hl ((j + 2) % 5)
  have h2 := hr ((j + 3) % 5)
  simp_all [Machine.combine160]

/-! ### The named updates, in two states at once -/

section
variable {i : Fin 16} {s s' : State} (hs : s.AlikeIn i s')
include hs

theorem State.AlikeIn.withW (t : Nat) {x x' : Vec} (hx : x[i] = x'[i]) : (s.withW t x).AlikeIn i (s'.withW t x') :=
  { hs with words256 := hs.words256.setNth t hx }

theorem State.AlikeIn.withS {v v' : Vector Vec 8} (hv : SameLane i v v') :
    (s.withS v).AlikeIn i (s'.withS v') :=
  { hs with state256 := hv }

theorem State.AlikeIn.withL1 {v v' : Vector Vec 5} (hv : SameLane i v v') :
    (s.withL1 v).AlikeIn i (s'.withL1 v') :=
  { hs with line1 := hv }

theorem State.AlikeIn.withL2 {v v' : Vector Vec 5} (hv : SameLane i v v') :
    (s.withL2 v).AlikeIn i (s'.withL2 v') :=
  { hs with line2 := hv }

theorem State.AlikeIn.withH {v v' : Vector Vec 5} (hv : SameLane i v v') :
    (s.withH v).AlikeIn i (s'.withH v') :=
  { hs with digest160 := hv }

theorem State.AlikeIn.advance (p : Pipe) (x : Instr) : (s.advance p x).AlikeIn i (s'.advance p x) := by
  cases p <;> exact { hs with }

end

/-- An engine micro-operation keeps two states alike in a lane (R27). -/
theorem State.AlikeIn.exec {x : Instr} {i : Fin 16} {s s' t t' : State}
    (hx : x = .init256 ∨ (∃ n, x = .exp256 n) ∨ (∃ n, x = .rnd256 n) ∨ x = .fin256 ∨ x = .init160 ∨
      (∃ n, x = .rnd160L1 n) ∨ (∃ n, x = .rnd160L2 n) ∨ x = .comb160)
    (hs : s.AlikeIn i s') (h : exec x s = .next t) (h' : exec x s' = .next t') : t.AlikeIn i t' := by
  obtain rfl | ⟨n, rfl⟩ | ⟨n, rfl⟩ | rfl | rfl | ⟨n, rfl⟩ | ⟨n, rfl⟩ | rfl := hx
  · cases h; cases h'
    exact (hs.withS (.refl i _)).advance .p256 .init256
  · obtain ⟨-, -, rfl⟩ := execExp256_next h
    obtain ⟨-, -, rfl⟩ := execExp256_next h'
    have hw := hs.words256
    exact (hs.withW _ (expand256_lane (hw _) (hw _) (hw _) (hw _))).advance .p256 (.exp256 n)
  · obtain ⟨-, rfl⟩ := execRnd256_next h
    obtain ⟨-, rfl⟩ := execRnd256_next h'
    exact (hs.withS (hs.state256.round256 _ (hs.words256 _))).advance .p256 (.rnd256 n)
  · cases h; cases h'
    exact (hs.withS hs.state256.final256).advance .p256 .fin256
  · cases h; cases h'
    exact ((hs.withL1 (.refl i _)).withL2 (.refl i _)).advance .p160 .init160
  · obtain ⟨-, rfl⟩ := execRnd160L1_next h
    obtain ⟨-, rfl⟩ := execRnd160L1_next h'
    exact (hs.withL1 (hs.line1.round160 _ _ _ (hs.words160 _))).advance .p160 (.rnd160L1 n)
  · obtain ⟨-, rfl⟩ := execRnd160L2_next h
    obtain ⟨-, rfl⟩ := execRnd160L2_next h'
    exact (hs.withL2 (hs.line2.round160 _ _ _ (hs.words160 _))).advance .p160 (.rnd160L2 n)
  · cases h; cases h'
    exact (hs.withH (hs.line1.combine160 hs.line2)).advance .p160 .comb160

/-- Settles O49: each engine micro-operation is one named update by a function that works lane by lane. -/
theorem engineLanesAreIndependent : Obligations.EngineLanesAreIndependent := by
  intro x i s s' t t' hx hs h h'
  have hlane : s.AlikeIn i s' := by
    constructor <;> intro k <;> obtain ⟨hw, hv, hxk, hl1, hl2, hh⟩ := hs k <;> assumption
  have ht := hlane.exec hx h h'
  exact fun k => ⟨ht.words256 k, ht.state256 k, ht.words160 k, ht.line1 k, ht.line2 k, ht.digest160 k⟩

end Sys2Proof.Machine
end

section
/-! The STATUS word, the operations without effect and the state after reset (10_state.md R22 to R24, R32), and the
statements O33, O34 and O42. -/

namespace Sys2Proof.Machine

open Sys2Proof

/-- The bits of STATUS (R23). -/
theorem statusWord_getLsbD (s : State) (n : Nat) :
    s.statusWord.getLsbD n = (decide (n = 0 ∧ s.p256.seq ≠ 0) || decide (n = 1 ∧ s.p160.seq ≠ 0)) := by
  simp only [State.statusWord, State.busy_p256, State.busy_p160, BitVec.getLsbD_append]
  match n with
  | 0 => simp
  | 1 => simp
  | n + 2 => simp

/-- Settles O33: `statusWord_getLsbD` for the word, which the read returns zero-extended. -/
theorem statusReadReturnsTheBusyBits : Obligations.StatusReadReturnsTheBusyBits := by
  intro s
  refine ⟨_, rfl, fun n => ?_, ?_, ?_, rfl, fun _ => rfl⟩
  · rw [← statusWord_getLsbD]
    simpa using fun h => (BitVec.lt_of_getLsbD h).trans (show 32 < 64 by decide)
  · simp
  · simp

/-- Settles O34: each of the three meanings is, by definition, the effect stated. -/
theorem idleStatusWriteAndCmdRead : Obligations.IdleStatusWriteAndCmdRead :=
  fun _ => ⟨rfl, fun _ => rfl, rfl⟩

/-- After reset no pointer register holds a value (R32). -/
theorem bank_reset_written (b : BankId) (i : Fin 16) : ((State.reset.bank b)[i]).written = false := by
  have h : State.reset.bank b = Bank.reset := by cases b <;> rfl
  rw [h, Fin.getElem_fin, Vector.getElem_replicate]

/-- The state after reset has the invariant: both pipelines are idle. -/
theorem inv_reset : State.reset.Inv := by
  have h256 : State.reset.busy .p256 ≠ true := by decide
  have h160 : State.reset.busy .p160 ≠ true := by decide
  exact ⟨Memory.wf_reset, rfl, rfl, fun h => absurd h h256, fun h => absurd h h160, fun h => absurd h h256,
    fun h => absurd h h160, fun h => absurd h h256⟩

/-- Settles O42. -/
theorem resetStateIsAsTheSpecSays : Obligations.ResetStateIsAsTheSpecSays :=
  ⟨rfl, rfl, rfl, bank_reset_written, inv_reset⟩

end Sys2Proof.Machine
end

section
/-! The invariant (20_memory.md R50, R57, R62; 30_encoding.md R86): what a turn of a pipeline and what a turn of the host can
do to a running command, and the statements O43 and O40. -/

namespace Sys2Proof.Machine

open Sys2Proof

/-! ## The position of a pipeline, from what it decodes to -/

/-- A phase and an index that name a row make the position that names the row (R84, R85). -/
theorem seqCode_of_decodePhase {phase : BitVec 4} {idx : BitVec 7} {i : Instr} (h : decodePhase phase idx = some i) :
    seqCode i = position phase idx := by
  unfold decodePhase at h
  have hphase : phase = BitVec.ofNat 4 phase.toNat := by simp
  split at h <;> rename_i hp <;> simp only [Option.ite_none_right_eq_some, Option.some.injEq, reduceCtorEq] at h <;>
    rw [hp] at hphase <;> subst hphase
  case h_1 | h_3 | h_6 | h_8 | h_10 | h_13 =>
    obtain ⟨rfl, rfl⟩ := h
    rfl
  case h_2 | h_4 | h_5 | h_7 | h_9 | h_11 | h_12 | h_14 =>
    subst h
    rfl

/-- The two fields of a position make it up again (R84). -/
theorem position_extract (q : BitVec 11) : position (q.extractLsb' 7 4) (q.extractLsb' 0 7) = q := by
  unfold position
  rw [BitVec.extractLsb'_append_extractLsb'_eq_extractLsb' (by rfl)]
  simp

/-- A pipeline's position is the one that names what it decodes to (R85). -/
theorem seqCode_of_decodeSeq {p : Pipe} {q : BitVec 11} {i : Instr} (h : decodeSeq p q = .ok i) : q = seqCode i := by
  obtain ⟨-, hd, -⟩ := decodeSeq_ok h
  rw [seqCode_of_decodePhase hd, position_extract]

/-- Two micro-operations of a pipeline at one position are the same (R85). -/
theorem Micro.seqCode_inj {p : Pipe} {i j : Instr} (hi : Micro p i) (hj : Micro p j) (h : seqCode i = seqCode j) :
    i = j := by
  have hd := decodeSeq_seqCode hi
  rw [h, decodeSeq_seqCode hj] at hd
  exact (Except.ok.inj hd).symm

theorem legalPosition_seqCode {p : Pipe} {i : Instr} (hi : Micro p i) : legalPosition p (seqCode i) = true := by
  rw [legalPosition, decodeSeq_seqCode hi]

theorem seqCode_idle : seqCode .idle = 0#11 := rfl

/-- IDLE is legal in both pipelines (R84). -/
theorem legalPosition_idle (p : Pipe) : legalPosition p 0#11 = true := by
  rw [← seqCode_idle]
  exact legalPosition_seqCode (.idle p)

/-- A legal position is that of a micro-operation of the pipeline. -/
theorem micro_of_legalPosition {p : Pipe} {q : BitVec 11} (h : legalPosition p q = true) :
    ∃ i, Micro p i ∧ q = seqCode i := by
  unfold legalPosition at h
  split at h
  next i hd => exact ⟨i, micro_of_decodeSeq hd, seqCode_of_decodeSeq hd⟩
  · cases h

theorem busy_iff_seqOf {p : Pipe} {s : State} : s.busy p = true ↔ s.seqOf p ≠ seqCode .idle := by
  cases p <;> exact decide_eq_true_iff

/-- What a pipeline's turn has run when it answers a next state: the micro-operation that its position names. -/
theorem pipeTurn_next_at {p : Pipe} {s t : State} (h : pipeTurn p s = .next t) :
    ∃ i, Micro p i ∧ s.seqOf p = seqCode i ∧ exec i s = .next t := by
  unfold pipeTurn runDecoded at h
  split at h
  next i hd => exact ⟨i, micro_of_decodeSeq hd, seqCode_of_decodeSeq hd, h⟩
  · cases h

/-- The turn of a pipeline that is not busy changes nothing (R24). -/
theorem pipeTurn_of_not_busy {p : Pipe} {s : State} (h : s.busy p ≠ true) : pipeTurn p s = .next s :=
  pipeTurn_at (.idle p) (by simpa [busy_iff_seqOf] using h)

/-! ## Changes that start no command -/

/-- The change from `s` to `t` starts no command: a pipeline that is busy after it was busy before it, with the same
pointers and window. -/
structure StartsNone (s t : State) : Prop where
  platform : t.platform = s.platform
  p256 : t.busy .p256 = true → s.busy .p256 = true ∧ t.p256.src = s.p256.src ∧ t.p256.dst = s.p256.dst ∧
    t.host.await256 = s.host.await256
  p160 : t.busy .p160 = true → s.busy .p160 = true ∧ t.p160.src = s.p160.src ∧ t.p160.dst = s.p160.dst ∧
    t.host.await160 = s.host.await160

/-- A change that starts no command keeps the invariant when it leaves memory in canonical form and both sequencers at
legal positions. -/
theorem StartsNone.inv {s t : State} (h : StartsNone s t) (hs : s.Inv) (hm : Memory.wf t.mem)
    (h256 : legalPosition .p256 t.p256.seq = true) (h160 : legalPosition .p160 t.p160.seq = true) : t.Inv := by
  obtain ⟨hplat, hp256, hp160⟩ := h
  refine ⟨hm, h256, h160, fun hb => ?_, fun hb => ?_, fun hb => ?_, fun hb => ?_, fun hb hb' => ?_⟩
  · obtain ⟨hbs, -, -, hw⟩ := hp256 hb
    exact hw.trans (hs.window256 hbs)
  · obtain ⟨hbs, -, -, hw⟩ := hp160 hb
    exact hw.trans (hs.window160 hbs)
  · obtain ⟨hbs, hsrc, hdst, -⟩ := hp256 hb
    simpa only [State.Ready256, State.LanesValid, hsrc, hdst, hplat] using hs.ready256 hbs
  · obtain ⟨hbs, hsrc, hdst, -⟩ := hp160 hb
    simpa only [State.Ready160, State.LanesValid, hsrc, hdst, hplat] using hs.ready160 hbs
  · obtain ⟨hbs, hsrc, hdst, -⟩ := hp256 hb
    obtain ⟨hbs', hsrc', hdst', -⟩ := hp160 hb'
    simpa only [State.RaceFree, State.Reads256, State.Writes256, State.Reads160, State.Writes160, hsrc, hdst, hsrc',
      hdst'] using hs.raceFree hbs hbs'

/-! ## The turns of a pipeline -/

/-- The lanes' writes to valid ranges keep the canonical form of memory. -/
theorem wf_scatter_laneWrites {s : State} (hm : Memory.wf s.mem) (p : Pipe) {b : Bank} {off n : Nat}
    {bytes : Fin 16 → List Byte} (hn : ∀ i, (bytes i).length = n) (hv : s.LanesValid b off n) :
    Memory.wf (s.scatter p (laneWrites b off bytes)).mem := by
  have hw : ∀ w ∈ laneWrites b off bytes, w.1 + w.2.length ≤ 2 ^ 64 := by
    intro w hw
    obtain ⟨i, rfl⟩ := mem_laneWrites.1 hw
    simpa only [hn] using (hv i).1
  cases p <;> exact Memory.wf_storeLanes hm _ hw

/-- A micro-operation keeps the canonical form of memory. -/
theorem exec_wf {p : Pipe} {i : Instr} (hi : Micro p i) {s t : State} (hm : Memory.wf s.mem) (h : exec i s = .next t) :
    Memory.wf t.mem := by
  cases hi with
  | idle | init256 | fin256 | init160 | comb160 => cases h; exact hm
  | ldwBE => obtain ⟨-, -, rfl⟩ := execLdwBE_next h; exact hm
  | exp256 => obtain ⟨-, -, rfl⟩ := execExp256_next h; exact hm
  | rnd256 => obtain ⟨-, rfl⟩ := execRnd256_next h; exact hm
  | stwBE =>
    obtain ⟨-, hv, rfl⟩ := execStwBE_next h
    simp only [State.advance_eq, State.withSeq_p256_mem]
    exact wf_scatter_laneWrites hm .p256 (fun _ => bytesOfWord_length _ _) hv
  | pad160 =>
    obtain ⟨hv, rfl⟩ := execPad160_next h
    simp only [State.advance_eq, State.withSeq_p160_mem]
    exact wf_scatter_laneWrites hm .p160 (fun _ => rfl) hv
  | ldwLE => obtain ⟨-, -, rfl⟩ := execLdwLE_next h; exact hm
  | rnd160L1 => obtain ⟨-, rfl⟩ := execRnd160L1_next h; exact hm
  | rnd160L2 => obtain ⟨-, rfl⟩ := execRnd160L2_next h; exact hm
  | stwLE =>
    obtain ⟨-, hv, rfl⟩ := execStwLE_next h
    simp only [State.advance_eq, State.withSeq_p160_mem]
    exact wf_scatter_laneWrites hm .p160 (fun _ => bytesOfWord_length _ _) hv

/-- A pipeline's turn starts no command. -/
theorem startsNone_pipeTurn {p : Pipe} {s t : State} (hb : s.busy p = true) (h : pipeTurn p s = .next t) :
    StartsNone s t := by
  obtain ⟨i, hi, he⟩ := pipeTurn_next h
  cases p with
  | p256 =>
    obtain ⟨h160, hhost, hplat, -, -, hsrc, hdst⟩ := exec256_frame hi he
    exact ⟨hplat, fun _ => ⟨hb, hsrc, hdst, by rw [hhost]⟩,
      fun hb' => ⟨by simpa [h160] using hb', by rw [h160], by rw [h160], by rw [hhost]⟩⟩
  | p160 =>
    obtain ⟨h256, hhost, hplat, -, -, hsrc, hdst⟩ := exec160_frame hi he
    exact ⟨hplat, fun hb' => ⟨by simpa [h256] using hb', by rw [h256], by rw [h256], by rw [hhost]⟩,
      fun _ => ⟨hb, hsrc, hdst, by rw [hhost]⟩⟩

/-- A pipeline's turn leaves its sequencer at a legal position (R86). -/
theorem legalPosition_pipeTurn {p : Pipe} {s t : State} (h : pipeTurn p s = .next t) :
    legalPosition p (t.seqOf p) = true := by
  obtain ⟨i, hi, hseq, h⟩ := pipeTurn_next_at h
  rw [exec_seqOf hi hseq h]
  exact legalPosition_seqCode hi.next

/-- A pipeline's turn keeps the invariant. -/
theorem State.Inv.pipeTurn {p : Pipe} {s t : State} (hs : s.Inv) (h : pipeTurn p s = .next t) : t.Inv := by
  by_cases hb : s.busy p = true
  · have hnone := startsNone_pipeTurn hb h
    have hlegal := legalPosition_pipeTurn h
    obtain ⟨i, hi, he⟩ := pipeTurn_next h
    have hm := exec_wf hi hs.mem_wf he
    cases p with
    | p256 => exact hnone.inv hs hm hlegal (by rw [(exec256_frame hi he).1]; exact hs.legal160)
    | p160 => exact hnone.inv hs hm (by rw [(exec160_frame hi he).1]; exact hs.legal256) hlegal
  · rw [pipeTurn_of_not_busy hb] at h
    cases h
    exact hs

/-! ## The turns of the host -/

/-- What an action of the host can do: give a command, write a pointer register, store, reset, or change nothing but the
host's own side, the windows of busy pipelines left as they are. -/
inductive HostEffect (s : State) : State → Prop
  | accepted {p : Pipe} {t : State} (h : accept p s = .next t) : HostEffect s t
  | pointer {b : BankId} {i : BitVec 4} {v : BitVec 64} {t : State} (h : writePointer b i v s = .next t) : HostEffect s t
  | stored {a : Nat} {bs : List Byte} {t : State} (h : hostStore a bs s = .next t) : HostEffect s t
  | reset : HostEffect s (resetCore s)
  | own {side : HostSide} (h256 : s.busy .p256 = true → side.await256 = s.host.await256)
      (h160 : s.busy .p160 = true → side.await160 = s.host.await160) : HostEffect s { s with host := side }

/-- A change of nothing is one of the host's own side. -/
theorem HostEffect.refl (s : State) : HostEffect s s := .own (side := s.host) (fun _ => rfl) (fun _ => rfl)

theorem runDecoded_next {d : Except Reject Instr} {s t : State} (h : runDecoded d s = .next t) :
    ∃ i, d = .ok i ∧ exec i s = .next t := by
  cases d with
  | ok i => exact ⟨i, rfl, h⟩
  | error r => cases h

/-- A pointer-write row writes a register of one of the four banks (R90). -/
theorem exec_pointerWrite (bank : BitVec 2) (i : BitVec 4) (v : BitVec 64) (s : State) :
    ∃ b, exec (pointerWrite bank i v) s = writePointer b i v s := by
  unfold pointerWrite
  split
  · exact ⟨.src256, rfl⟩
  · exact ⟨.dst256, rfl⟩
  · exact ⟨.src160, rfl⟩
  · exact ⟨.dst160, rfl⟩

/-- A pointer-read row reads a register of one of the four banks (R90). -/
theorem exec_pointerRead (bank : BitVec 2) (i : BitVec 4) (s : State) :
    ∃ b, exec (pointerRead bank i) s = readPointer b i s := by
  unfold pointerRead
  split
  · exact ⟨.src256, rfl⟩
  · exact ⟨.dst256, rfl⟩
  · exact ⟨.src160, rfl⟩
  · exact ⟨.dst160, rfl⟩

/-- A STATUS read leaves the windows of busy pipelines open (R57). -/
theorem hostEffect_readStatus {s t : State} (h : readStatus s = .next t) : HostEffect s t := by
  cases h
  exact .own (fun hb => by simp only [hb, Bool.and_true]) (fun hb => by simp only [hb, Bool.and_true])

/-- So does a STATUS read that leaves its wait pending (R92). -/
theorem hostEffect_readStatus_pushAction {s t : State} (h : readStatus s = .next t) (a : HostAction) :
    HostEffect s (t.pushAction a) := by
  cases h
  exact .own (fun hb => by simp only [hb, Bool.and_true]) (fun hb => by simp only [hb, Bool.and_true])

/-- A command word can only give a command (R82). -/
theorem hostEffect_decodeC {w : BitVec 32} {i : Instr} {s t : State} (hd : decodeC w = .ok i) (h : exec i s = .next t) :
    HostEffect s t := by
  unfold decodeC at hd
  split at hd
  · cases hd; exact .accepted (p := .p256) h
  · split at hd
    · cases hd; exact .accepted (p := .p160) h
    · cases hd

/-- What a register access can do (R90, R187). -/
theorem hostEffect_decodeA {r : BusReq} {i : Instr} {s t : State} (hd : decodeA r = .ok i) (h : exec i s = .next t) :
    HostEffect s t := by
  unfold decodeA at hd
  split at hd
  · split at hd
    · split at hd
      · cases hd
        obtain ⟨b, hb⟩ := exec_pointerWrite (r.offset.extractLsb' 7 2) (r.offset.extractLsb' 3 4) r.data s
        exact .pointer (hb ▸ h)
      · cases hd
        obtain ⟨b, hb⟩ := exec_pointerRead (r.offset.extractLsb' 7 2) (r.offset.extractLsb' 3 4) s
        obtain ⟨v, d, hr⟩ := readPointer_next b (r.offset.extractLsb' 3 4) s
        cases (hb.trans hr).symm.trans h
        exact .own (fun _ => rfl) (fun _ => rfl)
    · cases hd
  · split at hd
    · split at hd
      · cases hd
        obtain hw | hw | hw := writeCmd_cases (r.data.extractLsb' 0 32) s
        · exact .accepted (hw.symm.trans h)
        · exact .accepted (hw.symm.trans h)
        · cases hw.symm.trans h
      · cases hd; cases h
        exact .own (fun _ => rfl) (fun _ => rfl)
    · split at hd
      · split at hd
        · cases hd; cases h
          exact .refl _
        · cases hd
          exact hostEffect_readStatus h
      · cases hd
  · cases hd
  · cases hd

/-- What an action of the host has done when it answers a next state. -/
theorem hostEffect_hostAct {a : HostAction} {s t : State} (h : hostAct a s = .next t) : HostEffect s t := by
  cases a with
  | cmd w =>
    obtain ⟨i, hd, h⟩ := runDecoded_next h
    exact hostEffect_decodeC hd h
  | bus r =>
    obtain ⟨i, hd, h⟩ := runDecoded_next h
    exact hostEffect_decodeA hd h
  | store a bs => exact .stored h
  | load a n =>
    obtain rfl := hostLoad_next h
    exact .own (fun _ => rfl) (fun _ => rfl)
  | wait256 | wait160 =>
    obtain ⟨u, hu, hp⟩ := poll_eq _ _ s
    cases hp.symm.trans h
    split
    · exact hostEffect_readStatus_pushAction hu _
    · exact hostEffect_readStatus hu
  | reset =>
    cases h
    exact .reset

/-- The state with another list of pending actions. -/
def State.withProgram (s : State) (acts : List HostAction) : State := { s with host := { s.host with program := acts } }

/-- What a turn of the host has done when it answers a next state, once its action is taken off the list. -/
theorem hostTurn_next {s t : State} (h : hostTurn s = .next t) : ∃ acts, HostEffect (s.withProgram acts) t := by
  obtain h' | ⟨a, acts, -, h'⟩ := hostTurn_eq s
  · cases h'.symm.trans h
    exact ⟨s.host.program, .refl s⟩
  · exact ⟨acts, hostEffect_hostAct (h'.symm.trans h)⟩

/-- Neither the turns, nor the count of free choices, nor the host's list of actions is part of the invariant. -/
theorem State.Inv.congr {s : State} (hs : s.Inv) (acts : List HostAction) (ts : List Agent) (d : Nat) :
    State.Inv { s.withProgram acts with turns := ts, draws := d } := { hs with }

/-- An accepted command meets what the invariant asks of a busy pipeline (R180, R207). -/
theorem State.Inv.accept {p : Pipe} {s t : State} (hs : s.Inv) (h : accept p s = .next t) : t.Inv := by
  obtain ⟨-, hw, ha, hv, hr, rfl⟩ := accept_next h
  cases p with
  | p256 =>
    obtain ⟨hsrc, hdst⟩ := pointersWritten256_iff.1 hw
    obtain ⟨hvs, hvd⟩ := footprintValid256_iff.1 hv
    exact { hs with
      legal256 := legalPosition_seqCode (.ldwBE (by decide))
      window256 := fun _ => rfl
      ready256 := fun _ => ⟨hsrc, hdst, sourcesAligned256_iff.1 ha, hvs, hvd⟩
      raceFree := fun _ hb => footprintsConflict_iff.1 (hr hb) }
  | p160 =>
    obtain ⟨hsrc, hdst⟩ := pointersWritten160_iff.1 hw
    obtain ⟨hvs, hvd⟩ := footprintValid160_iff.1 hv
    exact { hs with
      legal160 := legalPosition_seqCode .pad160
      window160 := fun _ => rfl
      ready160 := fun _ => ⟨hsrc, hdst, sourcesAligned160_iff.1 ha, hvs, hvd⟩
      raceFree := fun hb _ => footprintsConflict_iff.1 (hr hb) }

/-- A bank of an idle pipeline is put in without starting a command. -/
theorem startsNone_withBank {b : BankId} {s : State} (h : s.busy b.pipe = false) (v : Bank) :
    StartsNone s (s.withBank b v) := by
  cases b with
  | src256 | dst256 =>
    exact ⟨rfl, fun hb => absurd (hb.symm.trans h) nofun, fun hb => ⟨hb, rfl, rfl, rfl⟩⟩
  | src160 | dst160 =>
    exact ⟨rfl, fun hb => ⟨hb, rfl, rfl, rfl⟩, fun hb => absurd (hb.symm.trans h) nofun⟩

/-- A bank put in leaves memory and both sequencers. -/
theorem withBank_frame (s : State) (b : BankId) (v : Bank) :
    (s.withBank b v).mem = s.mem ∧ (s.withBank b v).p256.seq = s.p256.seq ∧
      (s.withBank b v).p160.seq = s.p160.seq := by
  cases b <;> exact ⟨rfl, rfl, rfl⟩

/-- What the host does keeps the invariant. -/
theorem State.Inv.hostEffect {s t : State} (hs : s.Inv) (h : HostEffect s t) : t.Inv := by
  cases h with
  | accepted h => exact hs.accept h
  | pointer h =>
    obtain ⟨hb, -, rfl⟩ := writePointer_next h
    obtain ⟨hm, h256, h160⟩ := withBank_frame s _ _
    exact (startsNone_withBank hb _).inv hs (hm ▸ hs.mem_wf) (h256 ▸ hs.legal256) (h160 ▸ hs.legal160)
  | stored h =>
    obtain ⟨⟨hend, -⟩, -, -, rfl⟩ := hostStore_next h
    have hm := Memory.wf_writeBytes hs.mem_wf hend
    exact { hs with mem_wf := hm }
  | reset =>
    have hnone : StartsNone s (resetCore s) := ⟨rfl, by simp, by simp⟩
    exact hnone.inv hs (wf_memAfterReset hs.mem_wf) (legalPosition_idle _) (legalPosition_idle _)
  | own h256 h160 =>
    exact { hs with
      window256 := fun hb => (h256 hb).trans (hs.window256 hb)
      window160 := fun hb => (h160 hb).trans (hs.window160 hb) }

/-- Settles O43: a step is a turn; a pipeline's turn starts no command, and of what the host can do only an accepted command
does, which acceptance has checked. -/
theorem stepKeepsTheInvariant : Obligations.StepKeepsTheInvariant := by
  intro s t hs h
  obtain ⟨a, ts, d, hstep⟩ := step_eq_turn s
  have hu := hs.congr s.host.program ts d
  have h := hstep.symm.trans h
  cases a with
  | host =>
    obtain ⟨acts, heff⟩ := hostTurn_next h
    exact (hu.congr acts ts d).hostEffect heff
  | p256 => exact hu.pipeTurn (p := .p256) h
  | p160 => exact hu.pipeTurn (p := .p160) h

/-! ## What the host cannot disturb -/

/-- The pipeline and every byte of its footprint are in `t` as they were in `s`. -/
def Undisturbed (p : Pipe) (s t : State) : Prop :=
  (match p with
    | .p256 => t.p256 = s.p256
    | .p160 => t.p160 = s.p160) ∧
  ∀ a, RangesCover (s.footprint p) a → Memory.read t.mem a = Memory.read s.mem a

theorem undisturbed256_iff {s t : State} : Undisturbed .p256 s t ↔
    t.p256 = s.p256 ∧ ∀ a, s.Reads256 a ∨ s.Writes256 a → Memory.read t.mem a = Memory.read s.mem a := by
  simp only [Undisturbed, footprint256_iff]

theorem undisturbed160_iff {s t : State} : Undisturbed .p160 s t ↔
    t.p160 = s.p160 ∧ ∀ a, s.Reads160 a ∨ s.Writes160 a → Memory.read t.mem a = Memory.read s.mem a := by
  simp only [Undisturbed, footprint160_iff]

/-- A busy pipeline's window is open (R57). -/
theorem State.Inv.awaiting {p : Pipe} {s : State} (hs : s.Inv) (h : s.busy p = true) : s.awaiting p = true := by
  cases p
  · exact hs.window256 h
  · exact hs.window160 h

/-- What the host does short of a reset leaves a busy pipeline and its footprint alone (R57 item 3, R223). -/
theorem HostEffect.undisturbed {p : Pipe} {s t : State} (h : HostEffect s t) (hs : s.Inv) (hb : s.busy p = true) :
    t = resetCore s ∨ Undisturbed p s t := by
  cases h with
  | @accepted q _ h =>
    obtain ⟨hidle, -, -, -, -, rfl⟩ := accept_next h
    right
    cases p <;> cases q
    case p256.p160 | p160.p256 => exact ⟨rfl, fun _ _ => rfl⟩
    all_goals exact absurd (hb.symm.trans hidle) nofun
  | @pointer b _ _ _ h =>
    obtain ⟨hidle, -, rfl⟩ := writePointer_next h
    right
    refine ⟨?_, fun _ _ => by rw [(withBank_frame s b _).1]⟩
    cases p <;> cases b
    case p256.src160 | p256.dst160 | p160.src256 | p160.dst256 => rfl
    all_goals exact absurd (hb.symm.trans hidle) nofun
  | @stored a bs _ h =>
    obtain ⟨-, h256, h160, rfl⟩ := hostStore_next h
    have hrace : s.racesWith p (s.footprint p) (a, bs.length) = false := by
      cases p
      · exact h256
      · exact h160
    refine .inr ⟨by cases p <;> rfl, fun b hcov => ?_⟩
    have hoff := racesWith_false_iff.1 hrace (hs.awaiting hb) b
    exact (Memory.read_writeBytes hs.mem_wf.1 a bs b).trans (if_neg fun hab => hoff hab.1 hab.2 hcov)
  | reset => exact .inl rfl
  | own => exact .inr ⟨by cases p <;> rfl, fun _ _ => rfl⟩

/-- A turn of the host after which the pipeline is still busy leaves it and its footprint alone. -/
theorem hostTurn_undisturbed {p : Pipe} {s t : State} (hs : s.Inv) (h : hostTurn s = .next t) (hb : s.busy p = true)
    (hb' : t.busy p = true) : Undisturbed p s t := by
  obtain ⟨acts, heff⟩ := hostTurn_next h
  have hs' : (s.withProgram acts).Inv := hs.congr acts s.turns s.draws
  obtain rfl | hund := heff.undisturbed (p := p) hs' (by cases p <;> exact hb)
  · cases p <;> cases hb'
  · cases p <;> exact hund

/-- Settles O40: of what the host can do only a reset touches a busy pipeline, and it leaves the pipeline idle. -/
theorem hostTurnsLeaveRunningCommandsAlone : Obligations.HostTurnsLeaveRunningCommandsAlone :=
  fun _ _ hs h => ⟨fun hb hb' => undisturbed256_iff.1 (hostTurn_undisturbed hs h hb hb'),
    fun hb hb' => undisturbed160_iff.1 (hostTurn_undisturbed hs h hb hb')⟩

end Sys2Proof.Machine
end

section
/-! When a micro-operation completes and when it stops (20_memory.md R53, 30_encoding.md R86), what stands where its writes
conflict (20_memory.md R60), and the statements O24 and O25. -/

namespace Sys2Proof.Machine

open Sys2Proof

/-! ## The two checks of a micro-operation -/

/-- A micro-operation with a check of its index stops there when the index is out of range. -/
theorem indexCheck_stops {c : Prop} [Decidable c] (h : ¬c) (r : Result) :
    (if ¬c then .refused .reservedPosition else r) = Host.Outcome.refused Refusal.reservedPosition := if_pos h

/-- A micro-operation with a check of its lanes' ranges stops there when one is not valid. -/
theorem rangeCheck_stops {s : State} {b : Bank} {off n : Nat} (h : ¬s.LanesValid b off n) (r : Result) :
    (if !s.lanesValid b off n then .refused .badPointer else r) = Host.Outcome.refused Refusal.badPointer :=
  if_pos (by simpa [← lanesValid_iff] using h)

/-- A micro-operation with both checks passes them when its index is in range and its lanes' ranges are valid. -/
theorem indexCheck_passes {c : Prop} [Decidable c] (h : c) (r : Result) :
    (if ¬c then .refused .reservedPosition else r) = r := if_neg (not_not.2 h)

theorem rangeCheck_passes {s : State} {b : Bank} {off n : Nat} (h : s.LanesValid b off n) (r : Result) :
    (if !s.lanesValid b off n then .refused .badPointer else r) = r :=
  if_neg (by simpa [← lanesValid_iff] using h)

/-- Settles O25: each meaning begins with these two checks. -/
theorem microOperationStops : Obligations.MicroOperationStops := by
  constructor
  · intro j s
    refine ⟨fun h => ⟨?_, ?_⟩, fun h => ?_, fun h => ?_, fun h => ?_, fun h => ⟨?_, ?_⟩, fun h => ?_⟩
    all_goals exact indexCheck_stops (by omega) _
  · intro j s
    refine ⟨fun hj h => ?_, fun hj h => ?_, fun hj h => ?_, fun hj h => ?_, fun h => ?_⟩
    case refine_5 => exact rangeCheck_stops h _
    all_goals exact (indexCheck_passes hj _).trans (rangeCheck_stops h _)

theorem ldwBE_completes {j : BitVec 7} {s : State} (hj : j.toNat ≤ 15) (hv : s.LanesValid s.p256.src (4 * j.toNat) 4) :
    ∃ t, exec (.ldwBE j) s = .next t :=
  ⟨_, (indexCheck_passes hj _).trans (rangeCheck_passes hv _)⟩

theorem ldwLE_completes {j : BitVec 7} {s : State} (hj : j.toNat ≤ 15) (hv : s.LanesValid s.p160.src (4 * j.toNat) 4) :
    ∃ t, exec (.ldwLE j) s = .next t :=
  ⟨_, (indexCheck_passes hj _).trans (rangeCheck_passes hv _)⟩

theorem stwBE_completes {k : BitVec 7} {s : State} (hk : k.toNat ≤ 7) (hv : s.LanesValid s.p256.dst (4 * k.toNat) 4) :
    ∃ t, exec (.stwBE k) s = .next t :=
  ⟨_, (indexCheck_passes hk _).trans (rangeCheck_passes hv _)⟩

theorem stwLE_completes {k : BitVec 7} {s : State} (hk : k.toNat ≤ 4) (hv : s.LanesValid s.p160.dst (4 * k.toNat) 4) :
    ∃ t, exec (.stwLE k) s = .next t :=
  ⟨_, (indexCheck_passes hk _).trans (rangeCheck_passes hv _)⟩

theorem pad160_completes {s : State} (hv : s.LanesValid s.p160.src 32 32) : ∃ t, exec .pad160 s = .next t :=
  ⟨_, rangeCheck_passes hv _⟩

/-! ## The lanes' writes, address by address -/

theorem State.advance_mem (s : State) (p : Pipe) (i : Instr) : (s.advance p i).mem = s.mem := by cases p <;> rfl

/-- What a pipeline's lane stores leave at an address: the settled value where some lane writes, else what was there. -/
theorem read_scatter {s : State} (hm : Memory.wf s.mem) (p : Pipe) (ws : List LaneWrite) (a : Nat) :
    ∃ pick, Memory.read (s.scatter p ws).mem a =
      if a ∈ writtenAddrs ws then settled pick ws a else Memory.read s.mem a := by
  cases p <;> exact ⟨_, Memory.read_storeLanes hm.1 _ ws a⟩

/-- An address that some lane covers ends with the byte of a lane that writes it (R60). -/
theorem read_scatter_covered {s : State} (hm : Memory.wf s.mem) (p : Pipe) {b : Bank} {off n a : Nat}
    {bytes : Fin 16 → List Byte} (hn : ∀ i, (bytes i).length = n) (ha : b.Covers off n a) :
    ∃ i : Fin 16, ∃ k, k < n ∧ a = b.addr i + off + k ∧
      Memory.read (s.scatter p (laneWrites b off bytes)).mem a = (bytes i).getD k 0 := by
  obtain ⟨pick, hr⟩ := read_scatter hm p (laneWrites b off bytes) a
  rw [if_pos ((mem_writtenAddrs_laneWrites hn).2 ha)] at hr
  obtain ⟨i, k, hk, rfl, hset⟩ := settled_laneWrites hn pick ha
  exact ⟨i, k, hk, rfl, hr.trans hset⟩

/-- An address that some lane's word covers ends with a byte of such a lane's word (R60, R172). -/
theorem read_scatter_wordWrites {s : State} (hm : Memory.wf s.mem) (p : Pipe) (o : ByteOrder) {b : Bank} {off a : Nat}
    (v : Vec) (ha : b.Covers off 4 a) : ∃ i : Fin 16, ∃ n, n < 4 ∧ a = b.addr i + off + n ∧
      Memory.read (s.scatter p (wordWrites o b off v)).mem a = (bytesOfWord o v[i]).getD n 0 :=
  read_scatter_covered hm p (fun i => bytesOfWord_length o v[i]) ha

/-- Byte `n` of a word stored big-endian (R51). -/
theorem bytesOfWord_big_getD (w : Word) {n : Nat} (h : n < 4) :
    (bytesOfWord .big w).getD n 0 = w.extractLsb' (24 - 8 * n) 8 := by
  interval_cases n <;> rfl

/-- Byte `n` of a word stored little-endian (R51). -/
theorem bytesOfWord_little_getD (w : Word) {n : Nat} (h : n < 4) :
    (bytesOfWord .little w).getD n 0 = w.extractLsb' (8 * n) 8 := by
  interval_cases n <;> rfl

/-- Byte `k` of PADTAIL, at offset `32 + k` of the block (R146). -/
theorem padTail_getD {k : Nat} (h : k < 32) :
    padTail.getD k 0 = if 32 + k = 32 then 0x80 else if 32 + k = 57 then 0x01 else 0x00 := by
  interval_cases k <;> rfl

/-- Settles O24: `read_scatter_wordWrites` and `read_scatter_covered` for the bytes that some lane writes,
`read_scatter_laneWrites` for the others. -/
theorem conflictingWritesLeaveOneOfTheValues : Obligations.ConflictingWritesLeaveOneOfTheValues := by
  refine ⟨fun k s hk hv hm => ?_, fun k s hk hv hm => ?_, fun s hv hm => ?_⟩
  · obtain ⟨t, ht⟩ := stwBE_completes hk hv
    obtain ⟨-, -, rfl⟩ := execStwBE_next ht
    refine ⟨_, ht, ?_⟩
    rw [State.advance_mem]
    refine ⟨fun a ha => ?_, fun a => read_scatter_laneWrites hm .p256 fun _ => bytesOfWord_length _ _⟩
    obtain ⟨i, n, hn, rfl, hr⟩ := read_scatter_wordWrites hm .p256 .big _ ha
    exact ⟨i, n, hn, rfl, hr.trans (bytesOfWord_big_getD _ hn)⟩
  · obtain ⟨t, ht⟩ := stwLE_completes hk hv
    obtain ⟨-, -, rfl⟩ := execStwLE_next ht
    refine ⟨_, ht, ?_⟩
    rw [State.advance_mem]
    refine ⟨fun a ha => ?_, fun a => read_scatter_laneWrites hm .p160 fun _ => bytesOfWord_length _ _⟩
    obtain ⟨i, n, hn, rfl, hr⟩ := read_scatter_wordWrites hm .p160 .little _ ha
    exact ⟨i, n, hn, rfl, hr.trans (bytesOfWord_little_getD _ hn)⟩
  · obtain ⟨t, ht⟩ := pad160_completes hv
    obtain ⟨-, rfl⟩ := execPad160_next ht
    refine ⟨_, ht, ?_⟩
    rw [State.advance_mem]
    refine ⟨fun a ha => ?_, fun a => read_scatter_laneWrites hm .p160 fun _ => rfl⟩
    obtain ⟨i, k, hk, rfl, hr⟩ := read_scatter_covered hm .p160 (n := 32) (bytes := fun _ => padTail) (fun _ => rfl) ha
    exact ⟨i, 32 + k, by omega, by omega, by omega, hr.trans (padTail_getD hk)⟩

end Sys2Proof.Machine
end

section
/-! The turns of the two pipelines side by side (20_memory.md R59, R62; 60_exceptions.md R206), and the statement O47. -/

namespace Sys2Proof.Machine

open Sys2Proof

/-! ## A busy pipeline's turn completes -/

/-- Every micro-operation of P256 completes while the command's preconditions hold (R53, R207). -/
theorem exec256_completes {i : Instr} (hi : Micro .p256 i) {s : State} (hs : s.Ready256) : ∃ t, exec i s = .next t := by
  obtain ⟨-, -, -, hsrc, hdst⟩ := hs
  cases hi with
  | idle | init256 | fin256 => exact ⟨_, rfl⟩
  | ldwBE hj => exact ldwBE_completes hj (LanesValid.sub hsrc (by omega) (by omega))
  | exp256 hlo hhi => exact ⟨_, indexCheck_passes ⟨hlo, hhi⟩ _⟩
  | rnd256 ht => exact ⟨_, indexCheck_passes ht _⟩
  | stwBE hk => exact stwBE_completes hk (LanesValid.sub hdst (by omega) (by omega))

/-- Every micro-operation of P160 completes while the command's preconditions hold (R53, R207). -/
theorem exec160_completes {i : Instr} (hi : Micro .p160 i) {s : State} (hs : s.Ready160) : ∃ t, exec i s = .next t := by
  obtain ⟨-, -, -, hsrc, hdst⟩ := hs
  cases hi with
  | idle | init160 | comb160 => exact ⟨_, rfl⟩
  | pad160 => exact pad160_completes (LanesValid.sub hsrc (by omega) (by omega))
  | ldwLE hj => exact ldwLE_completes hj (LanesValid.sub hsrc (by omega) (by omega))
  | rnd160L1 hj => exact ⟨_, indexCheck_passes hj _⟩
  | rnd160L2 hj => exact ⟨_, indexCheck_passes hj _⟩
  | stwLE hk => exact stwLE_completes hk (LanesValid.sub hdst (by omega) (by omega))

/-- A busy pipeline's turn completes in every state with the invariant (R185). -/
theorem pipeTurn_completes {p : Pipe} {s : State} (hs : s.Inv) (hb : s.busy p = true) : ∃ t, pipeTurn p s = .next t := by
  cases p with
  | p256 =>
    obtain ⟨i, hi, hseq⟩ := micro_of_legalPosition hs.legal256
    rw [pipeTurn_at hi hseq]
    exact exec256_completes hi (hs.ready256 hb)
  | p160 =>
    obtain ⟨i, hi, hseq⟩ := micro_of_legalPosition hs.legal160
    rw [pipeTurn_at hi hseq]
    exact exec160_completes hi (hs.ready160 hb)

/-! ## A turn sees the pipeline and its blocks only -/

/-- From `s` to `t` and from `s'` to `t'` memory changes alike: each byte is left as it was both times, or set to one
value. -/
def ChangeAlike (s t s' t' : State) : Prop :=
  ∀ a, (Memory.read t.mem a = Memory.read s.mem a ∧ Memory.read t'.mem a = Memory.read s'.mem a) ∨
    Memory.read t'.mem a = Memory.read t.mem a

theorem ChangeAlike.refl (s s' : State) : ChangeAlike s s s' s' := fun _ => .inl ⟨rfl, rfl⟩

/-- The same lanes' writes, with the same picks where they conflict, change memory alike. -/
theorem changeAlike_storeLanes {s t s' t' : State} (hm : Memory.wf s.mem) (hm' : Memory.wf s'.mem) {pick : Nat → Nat}
    {ws : List LaneWrite} (h : t.mem = Memory.storeLanes pick ws s.mem)
    (h' : t'.mem = Memory.storeLanes pick ws s'.mem) : ChangeAlike s t s' t' := by
  intro a
  rw [h, h', Memory.read_storeLanes hm.1, Memory.read_storeLanes hm'.1]
  by_cases ha : a ∈ writtenAddrs ws
  · simp only [if_pos ha, or_true]
  · simp only [if_neg ha, true_and, true_or]

theorem changeAlike_scatter256 {s s' : State} (hm : Memory.wf s.mem) (hm' : Memory.wf s'.mem) (hp : s'.p256 = s.p256)
    (ws : List LaneWrite) (i : Instr) :
    ChangeAlike s ((s.scatter .p256 ws).advance .p256 i) s' ((s'.scatter .p256 ws).advance .p256 i) :=
  changeAlike_storeLanes hm hm' (pick := Config.freeWinner .p256 s.p256.draws) (ws := ws) (by simp) (by simp [hp])

theorem changeAlike_scatter160 {s s' : State} (hm : Memory.wf s.mem) (hm' : Memory.wf s'.mem) (hp : s'.p160 = s.p160)
    (ws : List LaneWrite) (i : Instr) :
    ChangeAlike s ((s.scatter .p160 ws).advance .p160 i) s' ((s'.scatter .p160 ws).advance .p160 i) :=
  changeAlike_storeLanes hm hm' (pick := Config.freeWinner .p160 s.p160.draws) (ws := ws) (by simp) (by simp [hp])

/-- A load of words that two memories agree on. -/
theorem gather_congr {s s' : State} (o : ByteOrder) {b : Bank} {off : Nat}
    (h : ∀ a, b.Covers off 4 a → Memory.read s'.mem a = Memory.read s.mem a) : s'.gather o b off = s.gather o b off := by
  apply Vector.ext
  intro i hi
  have hbyte : ∀ n, n < 4 → Memory.read s'.mem (b.addr ⟨i, hi⟩ + off + n) = Memory.read s.mem (b.addr ⟨i, hi⟩ + off + n) :=
    fun n hn => h _ ⟨⟨i, hi⟩, by omega, by omega⟩
  rw [gather_lane, gather_lane, Memory.readWord, Memory.readWord, hbyte 1 (by decide), hbyte 2 (by decide),
    hbyte 3 (by decide), show Memory.read s'.mem (b.addr ⟨i, hi⟩ + off) = _ from hbyte 0 (by decide)]
  rfl

/-- A micro-operation of P256 does the same in two states with the same P256 and the same blocks. -/
theorem exec256_local {i : Instr} (hi : Micro .p256 i) {s s' t t' : State} (hm : Memory.wf s.mem)
    (hm' : Memory.wf s'.mem) (hp : s'.p256 = s.p256) (hr : ∀ a, s.Reads256 a → Memory.read s'.mem a = Memory.read s.mem a)
    (h : exec i s = .next t) (h' : exec i s' = .next t') : t'.p256 = t.p256 ∧ ChangeAlike s t s' t' := by
  cases hi with
  | idle => cases h; cases h'; exact ⟨hp, .refl _ _⟩
  | init256 | fin256 =>
    cases h; cases h'
    exact ⟨by simp [State.withS, State.withSeq, hp], .refl _ _⟩
  | @ldwBE j hj =>
    obtain ⟨-, -, rfl⟩ := execLdwBE_next h
    obtain ⟨-, -, rfl⟩ := execLdwBE_next h'
    have hg := gather_congr (off := 4 * j.toNat) .big fun a ha => hr a (Covers.mono ha (by omega) (by omega))
    exact ⟨by simp [State.withW, State.withSeq, hp, hg], .refl _ _⟩
  | exp256 =>
    obtain ⟨-, -, rfl⟩ := execExp256_next h
    obtain ⟨-, -, rfl⟩ := execExp256_next h'
    exact ⟨by simp [State.withW, State.withSeq, hp], .refl _ _⟩
  | rnd256 =>
    obtain ⟨-, rfl⟩ := execRnd256_next h
    obtain ⟨-, rfl⟩ := execRnd256_next h'
    exact ⟨by simp [State.withS, State.withSeq, hp], .refl _ _⟩
  | stwBE =>
    obtain ⟨-, -, rfl⟩ := execStwBE_next h
    obtain ⟨-, -, rfl⟩ := execStwBE_next h'
    exact ⟨by simp [State.scatter, State.withSeq, hp], by rw [hp]; exact changeAlike_scatter256 hm hm' hp _ _⟩

/-- A micro-operation of P160 does the same in two states with the same P160 and the same blocks. -/
theorem exec160_local {i : Instr} (hi : Micro .p160 i) {s s' t t' : State} (hm : Memory.wf s.mem)
    (hm' : Memory.wf s'.mem) (hp : s'.p160 = s.p160) (hr : ∀ a, s.Reads160 a → Memory.read s'.mem a = Memory.read s.mem a)
    (h : exec i s = .next t) (h' : exec i s' = .next t') : t'.p160 = t.p160 ∧ ChangeAlike s t s' t' := by
  cases hi with
  | idle => cases h; cases h'; exact ⟨hp, .refl _ _⟩
  | init160 | comb160 =>
    cases h; cases h'
    exact ⟨by simp [State.withL1, State.withL2, State.withH, State.withSeq, hp], .refl _ _⟩
  | pad160 =>
    obtain ⟨-, rfl⟩ := execPad160_next h
    obtain ⟨-, rfl⟩ := execPad160_next h'
    exact ⟨by simp [State.scatter, State.withSeq, hp], by rw [hp]; exact changeAlike_scatter160 hm hm' hp _ _⟩
  | @ldwLE j hj =>
    obtain ⟨-, -, rfl⟩ := execLdwLE_next h
    obtain ⟨-, -, rfl⟩ := execLdwLE_next h'
    have hg := gather_congr (off := 4 * j.toNat) .little fun a ha => hr a (Covers.mono ha (by omega) (by omega))
    exact ⟨by simp [State.withX, State.withSeq, hp, hg], .refl _ _⟩
  | rnd160L1 =>
    obtain ⟨-, rfl⟩ := execRnd160L1_next h
    obtain ⟨-, rfl⟩ := execRnd160L1_next h'
    exact ⟨by simp [State.withL1, State.withSeq, hp], .refl _ _⟩
  | rnd160L2 =>
    obtain ⟨-, rfl⟩ := execRnd160L2_next h
    obtain ⟨-, rfl⟩ := execRnd160L2_next h'
    exact ⟨by simp [State.withL2, State.withSeq, hp], .refl _ _⟩
  | stwLE =>
    obtain ⟨-, -, rfl⟩ := execStwLE_next h
    obtain ⟨-, -, rfl⟩ := execStwLE_next h'
    exact ⟨by simp [State.scatter, State.withSeq, hp], by rw [hp]; exact changeAlike_scatter160 hm hm' hp _ _⟩

/-- A turn of P256 does the same in two states with the same P256 and the same blocks. -/
theorem pipeTurn256_local {s s' t t' : State} (hm : Memory.wf s.mem) (hm' : Memory.wf s'.mem) (hp : s'.p256 = s.p256)
    (hr : ∀ a, s.Reads256 a → Memory.read s'.mem a = Memory.read s.mem a) (h : pipeTurn .p256 s = .next t)
    (h' : pipeTurn .p256 s' = .next t') : t'.p256 = t.p256 ∧ ChangeAlike s t s' t' := by
  obtain ⟨i, hi, hseq, h⟩ := pipeTurn_next_at h
  rw [pipeTurn_at hi (by rw [State.seqOf_p256, hp]; exact hseq)] at h'
  exact exec256_local hi hm hm' hp hr h h'

/-- A turn of P160 does the same in two states with the same P160 and the same blocks. -/
theorem pipeTurn160_local {s s' t t' : State} (hm : Memory.wf s.mem) (hm' : Memory.wf s'.mem) (hp : s'.p160 = s.p160)
    (hr : ∀ a, s.Reads160 a → Memory.read s'.mem a = Memory.read s.mem a) (h : pipeTurn .p160 s = .next t)
    (h' : pipeTurn .p160 s' = .next t') : t'.p160 = t.p160 ∧ ChangeAlike s t s' t' := by
  obtain ⟨i, hi, hseq, h⟩ := pipeTurn_next_at h
  rw [pipeTurn_at hi (by rw [State.seqOf_p160, hp]; exact hseq)] at h'
  exact exec160_local hi hm hm' hp hr h h'

/-! ## Either order of two turns -/

theorem State.eq_of_parts {s t : State} (h256 : s.p256 = t.p256) (h160 : s.p160 = t.p160) (hmem : s.mem = t.mem)
    (hhost : s.host = t.host) (hplat : s.platform = t.platform) (hturns : s.turns = t.turns)
    (hdraws : s.draws = t.draws) : s = t := by
  cases s; cases t
  simp_all

/-- Four memories around a square of changes: `s` to `s1` writes only where `w` does, `s` to `s2` only where it does not, and
each change is made alike after the other. Both ways end in the same bytes. -/
theorem read_eq_of_square {s s1 s2 t t' : State} {w : Nat → Prop}
    (h1 : ∀ a, ¬w a → Memory.read s1.mem a = Memory.read s.mem a)
    (h2 : ∀ a, w a → Memory.read s2.mem a = Memory.read s.mem a)
    (h12 : ∀ a, w a → Memory.read t.mem a = Memory.read s1.mem a)
    (h21 : ∀ a, ¬w a → Memory.read t'.mem a = Memory.read s2.mem a)
    (hc1 : ChangeAlike s s1 s2 t') (hc2 : ChangeAlike s s2 s1 t) (a : Nat) :
    Memory.read t'.mem a = Memory.read t.mem a := by
  by_cases hw : w a
  · rw [h12 a hw]
    obtain ⟨he, he'⟩ | he := hc1 a
    · rw [he', he, h2 a hw]
    · exact he
  · rw [h21 a hw]
    obtain ⟨he, he'⟩ | he := hc2 a
    · rw [he', he, h1 a hw]
    · exact he.symm

/-- Settles O47: neither turn touches what the other reads or writes, so each does the same before and after the other. -/
theorem pipelineTurnsCommute : Obligations.PipelineTurnsCommute := by
  intro s hs hb256 hb160
  have hrace := hs.raceFree hb256 hb160
  obtain ⟨t1, h1⟩ := pipeTurn_completes hs hb256
  obtain ⟨t2, h2⟩ := pipeTurn_completes hs hb160
  have hs1 := hs.pipeTurn h1
  have hs2 := hs.pipeTurn h2
  obtain ⟨h1p, h1host, h1plat, h1turns, h1draws, h1src, h1dst, h1mem⟩ :=
    pipelineTurnsKeepToTheirOwn.1 s t1 hs.mem_wf h1
  obtain ⟨h2p, h2host, h2plat, h2turns, h2draws, h2src, h2dst, h2mem⟩ :=
    pipelineTurnsKeepToTheirOwn.2 s t2 hs.mem_wf h2
  obtain ⟨t, h12⟩ := pipeTurn_completes (p := .p160) hs1 (by rw [State.busy_p160, h1p]; exact hb160)
  obtain ⟨t', h21⟩ := pipeTurn_completes (p := .p256) hs2 (by rw [State.busy_p256, h2p]; exact hb256)
  obtain ⟨h12p, h12host, h12plat, h12turns, h12draws, -, -, h12mem⟩ :=
    pipelineTurnsKeepToTheirOwn.2 t1 t hs1.mem_wf h12
  obtain ⟨h21p, h21host, h21plat, h21turns, h21draws, -, -, h21mem⟩ :=
    pipelineTurnsKeepToTheirOwn.1 t2 t' hs2.mem_wf h21
  obtain ⟨he256, hc256⟩ := pipeTurn256_local hs.mem_wf hs2.mem_wf h2p
    (fun a ha => h2mem a fun hw => ((hrace a).2 hw).1 ha) h1 h21
  obtain ⟨he160, hc160⟩ := pipeTurn160_local hs.mem_wf hs1.mem_wf h1p
    (fun a ha => h1mem a fun hw => ((hrace a).1 hw).1 ha) h2 h12
  have hread := read_eq_of_square (w := s.Writes256) h1mem (fun a ha => h2mem a ((hrace a).1 ha).2)
    (fun a ha => h12mem a (by rw [State.Writes160, h1p]; exact ((hrace a).1 ha).2))
    (fun a ha => h21mem a (by rw [State.Writes256, h2p]; exact ha)) hc256 hc160
  have heq : t' = t := State.eq_of_parts (he256.trans h12p.symm) (h21p.trans he160.symm)
    (Memory.ext (hs2.pipeTurn h21).mem_wf (hs1.pipeTurn h12).mem_wf hread)
    (by rw [h21host, h2host, h12host, h1host]) (by rw [h21plat, h2plat, h12plat, h1plat])
    (by rw [h21turns, h2turns, h12turns, h1turns]) (by rw [h21draws, h2draws, h12draws, h1draws])
  exact ⟨t1, t2, t, h1, h12, h2, heq ▸ h21⟩

end Sys2Proof.Machine
end

section
/-! The host's races (20_memory.md R57) and the free turns (20_memory.md R59, 44_commands_and_sequencer.md R185), and the
statements O38 and O8. -/

namespace Sys2Proof.Machine

open Sys2Proof

/-! ## Where a host access stops -/

/-- A range races with a command when the host is inside the command's window and does not keep off its bytes. -/
theorem racesWith_iff_not_keepsOff {s : State} {p : Pipe} {rs : List (Nat × Nat)} {touched : Nat → Prop} {a n : Nat}
    (h : ∀ b, RangesCover rs b ↔ touched b) : s.racesWith p rs (a, n) = true ↔ ¬KeepsOff (s.awaiting p) touched a n := by
  rw [← Bool.not_eq_false, racesWith_false_iff]
  simp only [h]

/-- A store of ordinary memory that races with either command is refused (R57 item 3). -/
theorem hostStore_races {a : Nat} {bs : List Byte} {s : State} (hv : s.platform.ValidRange a bs.length)
    (h : s.racesWith .p256 (s.footprint .p256) (a, bs.length) = true ∨
      s.racesWith .p160 (s.footprint .p160) (a, bs.length) = true) : hostStore a bs s = .refused .hostRace := by
  unfold hostStore
  rw [if_neg (by simpa using validRange_iff.2 hv)]
  obtain h | h := h
  · rw [if_pos h]
  · rw [if_pos h, ite_self]

/-- A load of ordinary memory that races with either command is refused (R57 item 3). -/
theorem hostLoad_races {a n : Nat} {s : State} (hv : s.platform.ValidRange a n)
    (h : s.racesWith .p256 (s.writeRanges .p256) (a, n) = true ∨
      s.racesWith .p160 (s.writeRanges .p160) (a, n) = true) : hostLoad a n s = .refused .hostRace := by
  unfold hostLoad
  rw [if_neg (by simpa using validRange_iff.2 hv)]
  obtain h | h := h
  · rw [if_pos h]
  · rw [if_pos h, ite_self]

/-- Settles O38: not keeping off is racing, with the whole footprint for a store and the written bytes for a load. -/
theorem hostRacesAreRefused : Obligations.HostRacesAreRefused := by
  intro s a bs n
  constructor
  · intro hv h
    refine hostStore_races hv ?_
    rw [racesWith_iff_not_keepsOff fun _ => footprint256_iff, racesWith_iff_not_keepsOff fun _ => footprint160_iff]
    exact not_and_or.1 h
  · intro hv h
    refine hostLoad_races hv ?_
    rw [racesWith_iff_not_keepsOff fun _ => writes256_iff, racesWith_iff_not_keepsOff fun _ => writes160_iff]
    exact not_and_or.1 h

/-! ## Free turns -/

theorem mem_ready {a : Agent} {s : State} : a ∈ s.ready ↔
    (a = .p256 ∧ s.busy .p256 = true) ∨ (a = .p160 ∧ s.busy .p160 = true) ∨ (a = .host ∧ s.hostReady = true) := by
  simp only [State.ready, List.mem_append, List.mem_ite_nil_right, List.mem_singleton]
  tauto

/-- A host with an action to perform has an action pending. -/
theorem program_ne_nil_of_hostReady {s : State} (h : s.hostReady = true) : s.host.program ≠ [] := by
  intro he
  rw [State.hostReady, he] at h
  cases h

/-- With both pipelines idle, every pending action of the host is one to perform: a wait would not be held up (R92). -/
theorem hostReady_of_idle {s : State} (h256 : s.busy .p256 = false) (h160 : s.busy .p160 = false)
    (h : s.host.program ≠ []) : s.hostReady = true := by
  unfold State.hostReady
  split
  next he => exact absurd he h
  · rw [h256]; rfl
  · rw [h160]; rfl
  · rfl

/-- No agent has anything to do exactly when the run is over (R185). -/
theorem ready_eq_nil_iff {s : State} : s.ready = [] ↔ s.Over := by
  simp only [List.eq_nil_iff_forall_not_mem, mem_ready]
  constructor
  · intro h
    have h256 := Bool.eq_false_iff.2 fun hb => h .p256 (.inl ⟨rfl, hb⟩)
    have h160 := Bool.eq_false_iff.2 fun hb => h .p160 (.inr (.inl ⟨rfl, hb⟩))
    exact ⟨by_contra fun hp => h .host (.inr (.inr ⟨rfl, hostReady_of_idle h256 h160 hp⟩)), h256, h160⟩
  · rintro ⟨hp, h256, h160⟩ a (⟨-, hb⟩ | ⟨-, hb⟩ | ⟨-, hr⟩)
    · exact Bool.eq_false_iff.1 h256 hb
    · exact Bool.eq_false_iff.1 h160 hb
    · exact program_ne_nil_of_hostReady hr hp

/-- With nothing to do, the turn is an idle P256's. -/
theorem nextTurn_over {s : State} (ht : s.turns = []) (h : s.ready = []) : nextTurn s = (.p256, s) := by
  unfold nextTurn
  rw [ht, h]

/-- A free turn goes to an agent that has something to do (R59). -/
theorem nextTurn_free {s : State} (ht : s.turns = []) (h : s.ready ≠ []) :
    ∃ a ∈ s.ready, ∃ d, nextTurn s = (a, { s with draws := d }) := by
  unfold nextTurn
  split
  next he => exact absurd (ht.symm.trans he) nofun
  · split
    next hr => exact absurd hr h
    next a hr => exact ⟨a, by simp [hr], s.draws, rfl⟩
    next a b more hr =>
      have hlt : Config.freeTurn s.draws % (more.length + 2) < (a :: b :: more).length :=
        Nat.mod_lt _ (Nat.succ_pos _)
      refine ⟨_, ?_, s.draws + 1, rfl⟩
      rw [hr, List.getD_eq_getElem _ _ hlt]
      exact List.getElem_mem hlt

/-- Settles O8: `nextTurn_over` where the run is over, `nextTurn_free` where it is not. -/
theorem freeTurnIsSomeReadyAgent : Obligations.FreeTurnIsSomeReadyAgent := by
  constructor
  · intro s ht hover
    rw [step, systemStep, nextTurn_over ht (ready_eq_nil_iff.2 hover)]
    exact pipeTurn_of_not_busy (p := .p256) (Bool.eq_false_iff.1 hover.2.1)
  · intro s ht hover
    obtain ⟨a, ha, d, hturn⟩ := nextTurn_free ht (mt ready_eq_nil_iff.1 hover)
    refine ⟨a, d, by rw [step, systemStep, hturn], ?_⟩
    exact (mem_ready.1 ha).imp_right (Or.imp_right (And.imp_right program_ne_nil_of_hostReady))

end Sys2Proof.Machine
end

section
/-! `C256` of 41_engine256.md R129, word by word, and the same words in a lane of the engine's vectors. -/

namespace Sys2Proof.Machine

open Sys2Proof

/-! ## The schedule of a block -/

/-- The words that the schedule was extended from stand after the new ones. -/
theorem drop_extendSched (n : Nat) (ws : List Word) : (extendSched n ws).drop n = ws := by
  induction n generalizing ws with
  | zero => rfl
  | succ n ih =>
    rw [extendSched, ← List.drop_drop, ih]
    rfl

theorem length_extendSched (n : Nat) (ws : List Word) : (extendSched n ws).length = n + ws.length := by
  induction n generalizing ws with
  | zero => simp [extendSched]
  | succ n ih => rw [extendSched, ih, List.length_cons]; omega

theorem getD_drop (ws : List Word) (m k : Nat) : (ws.drop m).getD k 0#32 = ws.getD (m + k) 0#32 := by
  simp [List.getD_eq_getElem?_getD]

/-- Each new word is made from the words after it (R125). -/
theorem extendSched_new {n j : Nat} (h : j < n) (ws : List Word) :
    (extendSched n ws).getD j 0#32 = nextSchedWord ((extendSched n ws).drop (j + 1)) := by
  induction n generalizing ws j with
  | zero => omega
  | succ n ih =>
    rw [extendSched]
    obtain hj | rfl := Nat.lt_or_eq_of_le (Nat.le_of_lt_succ h)
    · exact ih hj _
    · rw [← List.drop_drop, drop_extendSched, ← Nat.add_zero j, ← getD_drop, Nat.add_zero, drop_extendSched]
      rfl

/-- `W[t]` of a block's schedule (R129). -/
def schedWord (b : Block) (t : Nat) : Word := (schedule256 b).getD t 0#32

/-- The schedule latest word first, as the model builds it. -/
def reverseSched (b : Block) : List Word := extendSched 48 ((List.range 16).map (blockWord .big b)).reverse

theorem schedWord_eq_reverse (b : Block) {t : Nat} (h : t < 64) : schedWord b t = (reverseSched b).getD (63 - t) 0#32 := by
  have hlen : (reverseSched b).length = 64 := by simp [reverseSched, length_extendSched]
  have hrev : schedule256 b = (reverseSched b).reverse := rfl
  rw [schedWord, hrev, List.getD_eq_getElem?_getD, List.getElem?_reverse (by omega), hlen,
    ← List.getD_eq_getElem?_getD]

/-- The first 16 words are the block's (R129). -/
theorem schedWord_block (b : Block) {t : Nat} (h : t < 16) : schedWord b t = blockWord .big b t := by
  rw [schedWord_eq_reverse b (by omega), show 63 - t = 48 + (15 - t) by omega, ← getD_drop, reverseSched,
    drop_extendSched, List.getD_eq_getElem?_getD, List.getElem?_reverse (by simp; omega)]
  simp [show 15 - (15 - t) = t by omega, h]

/-- Every later word is the sum of R125. -/
theorem schedWord_extended (b : Block) {t : Nat} (hlo : 16 ≤ t) (hhi : t < 64) :
    schedWord b t =
      sig1 (schedWord b (t - 2)) + schedWord b (t - 7) + sig0 (schedWord b (t - 15)) + schedWord b (t - 16) := by
  have hback : ∀ n, n + 1 ≤ t → schedWord b (t - (n + 1)) = ((reverseSched b).drop (63 - t + 1)).getD n 0#32 := by
    intro n hn
    rw [schedWord_eq_reverse b (by omega), getD_drop]
    congr 1
    omega
  rw [hback 1 (by omega), hback 6 (by omega), hback 14 (by omega), hback 15 (by omega), schedWord_eq_reverse b hhi,
    reverseSched, extendSched_new (by omega)]
  rfl

/-! ## The rounds of a block -/

/-- The engine's eight words in one lane after the first `n` rounds (R129). -/
def roundsOf (b : Block) (n : Nat) : Hash256 :=
  (List.range n).foldl (fun s t => roundWord256 (k256 t) (schedWord b t) s) initWord256

theorem roundsOf_succ (b : Block) (n : Nat) :
    roundsOf b (n + 1) = roundWord256 (k256 n) (schedWord b n) (roundsOf b n) := by
  simp [roundsOf, List.range_succ]

/-- The digest is the words after 64 rounds with the initial constants added back (R127, R129). -/
theorem c256_eq (b : Block) :
    c256 b = [iv256 0 + (roundsOf b 64).a, iv256 1 + (roundsOf b 64).b, iv256 2 + (roundsOf b 64).c,
      iv256 3 + (roundsOf b 64).d, iv256 4 + (roundsOf b 64).e, iv256 5 + (roundsOf b 64).f,
      iv256 6 + (roundsOf b 64).g, iv256 7 + (roundsOf b 64).h] := by
  simp only [c256, roundsOf, schedWord]

/-! ## One lane of the engine's vectors -/

/-- The eight words that one lane of the state vectors holds. -/
def laneHash (v : Vector Vec 8) (l : Fin 16) : Hash256 :=
  { a := (nth v 0)[l], b := (nth v 1)[l], c := (nth v 2)[l], d := (nth v 3)[l]
    e := (nth v 4)[l], f := (nth v 5)[l], g := (nth v 6)[l], h := (nth v 7)[l] }

/-- `INIT256` in one lane (R124). -/
theorem laneHash_init (l : Fin 16) : laneHash (Vector.ofFn fun k : Fin 8 => bcast (iv256 k)) l = initWord256 := by
  simp [laneHash, initWord256]

/-- `RND256` in one lane (R126). -/
theorem laneHash_round (k : Word) (w : Vec) (v : Vector Vec 8) (l : Fin 16) :
    laneHash (round256 k w v) l = roundWord256 k w[l] (laneHash v l) := by
  simp [laneHash, round256, roundWord256, nth_eq]

/-- `FIN256` in one lane (R127): word `k` of the digest, when the lane has done its 64 rounds. -/
theorem final256_lane {v : Vector Vec 8} {l : Fin 16} {b : Block} (h : laneHash v l = roundsOf b 64) {k : Nat}
    (hk : k < 8) : (nth (final256 v) k)[l] = (c256 b).getD k 0#32 := by
  have hv : (nth (final256 v) k)[l] = iv256 k + (nth v k)[l] := by
    simp [final256, nth_eq _ hk, BitVec.add_comm]
  rw [hv, c256_eq, ← h]
  interval_cases k <;> rfl

/-- `EXP256` in one lane (R125). -/
theorem expand256_getElem (w2 w7 w15 w16 : Vec) (l : Fin 16) :
    (expand256 w2 w7 w15 w16)[l] = sig1 w2[l] + w7[l] + sig0 w15[l] + w16[l] := by
  simp [expand256]

/-- A loaded word is a word of the lane's block (R112). -/
theorem gather_getElem (s : State) (o : ByteOrder) (b : Bank) {j : Nat} (hj : j < 16) (l : Fin 16) :
    (s.gather o b (4 * j))[l] = blockWord o (s.blockOf b l) j := by
  have hbyte : ∀ n, n < 64 → blockByte (s.blockOf b l) n = Memory.read s.mem (b.addr l + n) := by
    intro n hn
    simp [blockByte, State.blockOf, hn]
  rw [Fin.getElem_fin, gather_lane, Memory.readWord, blockWord, hbyte _ (by omega), hbyte _ (by omega),
    hbyte _ (by omega), hbyte _ (by omega)]
  rfl

end Sys2Proof.Machine
end

section
/-! BT256 from its acceptance to its end (44_commands_and_sequencer.md R181, R183, R186), whatever the other agents do in
between (20_memory.md R57, R59), and the statement O55. -/

namespace Sys2Proof.Machine

open Sys2Proof

/-! ## What BT256 has done when it comes to a micro-operation -/

/-- The first `n` schedule vectors hold the words of the lanes' blocks. -/
def WordsDone (B : Fin 16 → Block) (n : Nat) (w : Vector Vec 64) : Prop :=
  ∀ (l : Fin 16) (k : Nat), k < n → (nth w k)[l] = schedWord (B l) k

/-- The state vectors hold what the lanes' blocks make in `n` rounds. -/
def RoundsDone (B : Fin 16 → Block) (n : Nat) (v : Vector Vec 8) : Prop :=
  ∀ l : Fin 16, laneHash v l = roundsOf (B l) n

/-- The state vectors hold the digests of the lanes' blocks. -/
def DigestsDone (B : Fin 16 → Block) (v : Vector Vec 8) : Prop :=
  ∀ (l : Fin 16) (k : Nat), k < 8 → (nth v k)[l] = (c256 (B l)).getD k 0#32

/-- The first `n` bytes of the digests of the lanes' blocks stand in the digest buffers. -/
def BytesDone (B : Fin 16 → Block) (n : Nat) (u : State) : Prop :=
  ∀ (l : Fin 16) (m : Nat), m < n → Memory.read u.mem (u.p256.dst.addr l + m) = digestByte .big (c256 (B l)) m

/-- What BT256 has done for the blocks `B` when it comes to this micro-operation of R183; nothing is said before a
micro-operation that is none of them. -/
def Progress256 (B : Fin 16 → Block) : Instr → State → Prop
  | .ldwBE j, u => u.blockOf u.p256.src = B ∧ WordsDone B j.toNat u.p256.w
  | .init256, u => WordsDone B 16 u.p256.w
  | .exp256 t, u => WordsDone B t.toNat u.p256.w ∧ RoundsDone B 0 u.p256.s
  | .rnd256 t, u => WordsDone B 64 u.p256.w ∧ RoundsDone B t.toNat u.p256.s
  | .fin256, u => RoundsDone B 64 u.p256.s
  | .stwBE k, u => DigestsDone B u.p256.s ∧ BytesDone B (4 * k.toNat) u
  | .idle, u => BytesDone B 32 u
  | _, _ => True

/-- One more schedule vector. -/
theorem WordsDone.addVector {B : Fin 16 → Block} {n : Nat} {w : Vector Vec 64} (h : WordsDone B n w) (hn : n < 64) {x : Vec}
    (hx : ∀ l : Fin 16, x[l] = schedWord (B l) n) : WordsDone B (n + 1) (setNth w n x) := by
  intro l k hk
  by_cases hkn : k = n
  · rw [hkn, nth_setNth_self _ _ hn, hx]
  · rw [nth_setNth_ne _ _ hkn, h l k (by omega)]

/-- `LDW.BE j` loads the blocks' word `j` (R110, R129). -/
theorem WordsDone.load {B : Fin 16 → Block} {u : State} {j : Nat} (h : WordsDone B j u.p256.w) (hj : j ≤ 15)
    (hB : u.blockOf u.p256.src = B) : WordsDone B (j + 1) (setNth u.p256.w j (u.gather .big u.p256.src (4 * j))) :=
  h.addVector (by omega) fun l => by rw [gather_getElem _ _ _ (by omega), hB, schedWord_block _ (by omega)]

/-- `EXP256 t` makes the schedule's word `t` (R125, R129). -/
theorem WordsDone.expand {B : Fin 16 → Block} {w : Vector Vec 64} {t : Nat} (h : WordsDone B t w) (hlo : 16 ≤ t)
    (hhi : t ≤ 63) :
    WordsDone B (t + 1) (setNth w t (expand256 (nth w (t - 2)) (nth w (t - 7)) (nth w (t - 15)) (nth w (t - 16)))) :=
  h.addVector (by omega) fun l => by
    rw [expand256_getElem, h l _ (by omega), h l _ (by omega), h l _ (by omega), h l _ (by omega),
      ← schedWord_extended _ hlo (by omega)]

/-- `RND256 t` performs round `t` (R126, R129). -/
theorem RoundsDone.round {B : Fin 16 → Block} {w : Vector Vec 64} {v : Vector Vec 8} {t : Nat} (h : RoundsDone B t v)
    (ht : t ≤ 63) (hw : WordsDone B 64 w) : RoundsDone B (t + 1) (round256 (k256 t) (nth w t) v) := by
  intro l
  rw [laneHash_round, h l, hw l t (by omega), roundsOf_succ]

/-- `STW.BE k` writes byte `4k` to `4k + 3` of the digests and leaves those before (R170), the digest buffers being
disjoint. -/
theorem BytesDone.store {B : Fin 16 → Block} {u : State} {k : Nat} (h : BytesDone B (4 * k) u) (hk : k ≤ 7)
    (hd : DigestsDone B u.p256.s) (hm : Memory.wf u.mem) (hapart : u.p256.dst.Apart 32) :
    BytesDone B (4 * (k + 1)) (u.scatter .p256 (wordWrites .big u.p256.dst (4 * k) (nth u.p256.s k))) := by
  intro l m hmlt
  rw [State.scatter_p256_p256_dst]
  have hlane : ∀ i : Fin 16, u.p256.dst.addr i + 4 * k ≤ u.p256.dst.addr l + m →
      u.p256.dst.addr l + m < u.p256.dst.addr i + 4 * k + 4 → i = l := by
    intro i h1 h2
    by_contra hne
    obtain hlt | hlt := hapart i l hne <;> omega
  by_cases hold : m < 4 * k
  · rw [← h l m hold]
    refine read_scatter_laneWrites hm .p256 (fun i => bytesOfWord_length _ _) ?_
    rintro ⟨i, h1, h2⟩
    obtain rfl := hlane i h1 h2
    omega
  · have hcov : u.p256.dst.Covers (4 * k) 4 (u.p256.dst.addr l + m) := ⟨l, by omega, by omega⟩
    obtain ⟨i, n, hn, ha, hr⟩ := read_scatter_wordWrites hm .p256 .big (nth u.p256.s k) hcov
    obtain rfl := hlane i (by omega) (by omega)
    rw [hr, hd i k (by omega), digestByte, show m / 4 = k by omega, show m % 4 = n by omega]
    rfl

/-- The next position changes no byte. -/
theorem BytesDone.advance {B : Fin 16 → Block} {n : Nat} {u : State} (h : BytesDone B n u) (i : Instr) :
    BytesDone B n (u.advance .p256 i) := by
  intro l m hm
  rw [State.advance_mem]
  exact h l m hm

/-- A micro-operation of BT256 does its part (R183). -/
theorem Progress256.exec {B : Fin 16 → Block} {i : Instr} (hi : Micro .p256 i) {u v : State} (hp : Progress256 B i u)
    (hm : Memory.wf u.mem) (hapart : u.p256.dst.Apart 32) (h : exec i u = .next v) : Progress256 B (nextMicro i) v := by
  cases hi with
  | idle => cases h; exact hp
  | @ldwBE j hj =>
    obtain ⟨-, -, rfl⟩ := execLdwBE_next h
    obtain ⟨hB, hw⟩ := hp
    have hw' := hw.load hj hB
    simp only [nextMicro]
    split
    · rw [← idx_succ (by omega)] at hw'
      exact ⟨hB, hw'⟩
    · rw [show j.toNat + 1 = 16 by omega] at hw'
      exact hw'
  | init256 =>
    cases h
    exact ⟨hp, laneHash_init⟩
  | @exp256 t hlo hhi =>
    obtain ⟨-, -, rfl⟩ := execExp256_next h
    obtain ⟨hw, hv⟩ := hp
    have hw' := hw.expand hlo hhi
    simp only [nextMicro]
    split
    · rw [← idx_succ (by omega)] at hw'
      exact ⟨hw', hv⟩
    · rw [show t.toNat + 1 = 64 by omega] at hw'
      exact ⟨hw', hv⟩
  | @rnd256 t ht =>
    obtain ⟨-, rfl⟩ := execRnd256_next h
    obtain ⟨hw, hv⟩ := hp
    have hv' := hv.round ht hw
    simp only [nextMicro]
    split
    · rw [← idx_succ (by omega)] at hv'
      exact ⟨hw, hv'⟩
    · rw [show t.toNat + 1 = 64 by omega] at hv'
      exact hv'
  | fin256 =>
    cases h
    exact ⟨fun l k hk => final256_lane (hp l) hk, fun l m hm => absurd hm (Nat.not_lt_zero m)⟩
  | @stwBE k hk =>
    obtain ⟨-, -, rfl⟩ := execStwBE_next h
    obtain ⟨hd, hb⟩ := hp
    have hb' := (hb.store hk hd hm hapart).advance (.stwBE k)
    simp only [nextMicro]
    split
    · rw [← idx_succ (by omega)] at hb'
      exact ⟨hd, hb'⟩
    · rw [show 4 * (k.toNat + 1) = 32 by omega] at hb'
      exact hb'

/-! ## What the other agents do in between -/

/-- Blocks of an undisturbed P256 stay as they are. -/
theorem Undisturbed.blockOf {u v : State} (h : Undisturbed .p256 u v) :
    v.blockOf v.p256.src = u.blockOf u.p256.src := by
  obtain ⟨hp, hr⟩ := undisturbed256_iff.1 h
  funext l
  refine Vector.ext fun n hn => ?_
  simp only [State.blockOf, Vector.getElem_ofFn, hp]
  exact hr _ (.inl ⟨l, by omega, by omega⟩)

/-- Digest bytes of an undisturbed P256 stay as they are. -/
theorem BytesDone.undisturbed {B : Fin 16 → Block} {n : Nat} {u v : State} (hb : BytesDone B n u) (hn : n ≤ 32)
    (h : Undisturbed .p256 u v) : BytesDone B n v := by
  obtain ⟨hp, hr⟩ := undisturbed256_iff.1 h
  intro l m hm
  rw [hp, hr _ (.inr ⟨l, by omega, by omega⟩)]
  exact hb l m hm

/-- What BT256 has done stays done while P256 and its footprint are undisturbed. -/
theorem Progress256.undisturbed {B : Fin 16 → Block} {i : Instr} (hi : Micro .p256 i) {u v : State}
    (hp : Progress256 B i u) (h : Undisturbed .p256 u v) : Progress256 B i v := by
  obtain ⟨hv, -⟩ := undisturbed256_iff.1 h
  cases hi with simp only [Progress256, hv] at hp ⊢
  | idle => exact hp.undisturbed (by omega) h
  | ldwBE => exact ⟨by rw [← hv, h.blockOf]; exact hp.1, hp.2⟩
  | init256 | exp256 | rnd256 | fin256 => exact hp
  | stwBE hk => exact ⟨hp.1, hp.2.undisturbed (by omega) h⟩

/-- P160's turns leave a busy P256 and its footprint alone (R62). -/
theorem pipeTurn160_undisturbed {s t : State} (hs : s.Inv) (hb : s.busy .p256 = true) (h : pipeTurn .p160 s = .next t) :
    Undisturbed .p256 s t := by
  by_cases hb' : s.busy .p160 = true
  · obtain ⟨hp, -, -, -, -, -, -, hread⟩ := pipelineTurnsKeepToTheirOwn.2 s t hs.mem_wf h
    have hrace := hs.raceFree hb hb'
    refine undisturbed256_iff.2 ⟨hp, fun a ha => hread a fun hw => ?_⟩
    obtain ⟨hnr, hnw⟩ := (hrace a).2 hw
    exact ha.elim hnr hnw
  · rw [pipeTurn_of_not_busy hb'] at h
    cases h
    exact undisturbed256_iff.2 ⟨rfl, fun _ _ => rfl⟩

/-! ## The whole run -/

/-- A state of a run of BT256 for the blocks `B` and the digest buffers at `dst`, its last one included. -/
structure Running256 (B : Fin 16 → Block) (dst : Bank) (u : State) : Prop where
  inv : u.Inv
  dst_eq : u.p256.dst = dst
  progress : ∃ i, Micro .p256 i ∧ u.p256.seq = seqCode i ∧ Progress256 B i u

theorem Running256.undisturbed {B : Fin 16 → Block} {dst : Bank} {u v : State} (hr : Running256 B dst u) (hv : v.Inv)
    (h : Undisturbed .p256 u v) : Running256 B dst v := by
  obtain ⟨-, hdst, i, hi, hseq, hp⟩ := hr
  obtain ⟨he, -⟩ := undisturbed256_iff.1 h
  exact ⟨hv, by rw [he, hdst], i, hi, by rw [he, hseq], hp.undisturbed hi h⟩

/-- P256's own turn takes the run one micro-operation on. -/
theorem Running256.pipeTurn {B : Fin 16 → Block} {dst : Bank} {u v : State} (hr : Running256 B dst u)
    (hapart : dst.Apart 32) (h : pipeTurn .p256 u = .next v) : Running256 B dst v := by
  obtain ⟨hinv, rfl, i, hi, hseq, hp⟩ := hr
  have hv := hinv.pipeTurn h
  rw [pipeTurn_at hi hseq] at h
  obtain ⟨-, -, -, -, -, -, hdst⟩ := exec256_frame hi h
  exact ⟨hv, hdst, nextMicro i, hi.next, exec_seqOf hi hseq h, hp.exec hi hinv.mem_wf hapart h⟩

/-- A reset leaves P256 idle and without a written register (R220). -/
theorem reset_not_written (u : State) :
    (resetCore u).busy .p256 = false ∧ ¬(resetCore u).p256.src.Written :=
  ⟨by simp, fun h => absurd (h 0) (by simp)⟩

/-- A step of the system, whichever agent's, keeps the run of BT256 going, or is a reset. -/
theorem Running256.step {B : Fin 16 → Block} {dst : Bank} {u v : State} (hr : Running256 B dst u)
    (hapart : dst.Apart 32) (hb : u.busy .p256 = true) (h : step u = .next v) :
    Running256 B dst v ∨ (v.busy .p256 = false ∧ ¬v.p256.src.Written) := by
  obtain ⟨a, ts, d, hstep⟩ := step_eq_turn u
  have h := hstep.symm.trans h
  have hsame : ∀ acts, Undisturbed .p256 u { u.withProgram acts with turns := ts, draws := d } :=
    fun _ => undisturbed256_iff.2 ⟨rfl, fun _ _ => rfl⟩
  have hru := fun acts => hr.undisturbed (hr.inv.congr acts ts d) (hsame acts)
  cases a with
  | p256 => exact .inl ((hru u.host.program).pipeTurn hapart h)
  | p160 =>
    have hu := hru u.host.program
    exact .inl (hu.undisturbed (hu.inv.pipeTurn (p := .p160) h) (pipeTurn160_undisturbed hu.inv hb h))
  | host =>
    obtain ⟨acts, heff⟩ := hostTurn_next h
    have hu := hru acts
    obtain rfl | hund := heff.undisturbed (p := .p256) hu.inv hb
    · exact .inr (reset_not_written _)
    · exact .inl (hu.undisturbed (hu.inv.hostEffect heff) hund)

/-- A run's first step, when the run answers a next state. -/
theorem run_succ_next {n : Nat} {s t : State} (h : Host.Core.run core (n + 1) s = .next t) :
    ∃ u, step s = .next u ∧ Host.Core.run core n u = .next t := by
  cases hu : step s with
  | next u => exact ⟨u, rfl, (run_next core n hu).symm.trans h⟩
  | fault r => cases (run_fault core n hu).symm.trans h
  | refused r => cases (run_refused core n hu).symm.trans h

/-- A run of the system that P256 is busy all along and that does not end with a reset is a run of BT256 up to its end. -/
theorem Running256.run {B : Fin 16 → Block} {dst : Bank} (hapart : dst.Apart 32) {m : Nat} {s t : State}
    (hr : Running256 B dst s) (hbusy : ∀ k, k < m → ∃ u : State, Host.Core.run core k s = .next u ∧ u.busy .p256 = true)
    (h : Host.Core.run core m s = .next t) (hw : t.p256.src.Written) : Running256 B dst t := by
  induction m generalizing s with
  | zero =>
    cases h
    exact hr
  | succ m ih =>
    obtain ⟨u, hu, h⟩ := run_succ_next h
    have hbusy' : ∀ k, k < m → ∃ v : State, Host.Core.run core k u = .next v ∧ v.busy .p256 = true := by
      intro k hk
      rw [← run_next core k hu]
      exact hbusy (k + 1) (by omega)
    obtain ⟨s', hs', hb⟩ := hbusy 0 (by omega)
    cases hs'
    obtain hru | ⟨hidle, hnw⟩ := hr.step hapart hb hu
    · exact ih hru hbusy' h
    · cases m with
      | zero =>
        cases h
        exact absurd hw hnw
      | succ m =>
        obtain ⟨v, hv, hbv⟩ := hbusy' 0 (by omega)
        cases hv
        exact absurd (hbv.symm.trans hidle) nofun

/-- An accepted BT256 is at the start of a run for the blocks as they are (R180). -/
theorem running256_of_accept {s0 s : State} (hs0 : s0.Inv) (h : accept .p256 s0 = .next s) :
    Running256 (s0.blockOf s0.p256.src) s0.p256.dst s := by
  have hs := hs0.accept h
  obtain ⟨-, -, -, -, -, rfl⟩ := accept_next h
  exact ⟨hs, rfl, .ldwBE 0#7, .ldwBE (by decide), rfl, rfl, fun _ k hk => absurd hk (Nat.not_lt_zero k)⟩

/-- At the end of a run the digests are written. -/
theorem Running256.bytesDone {B : Fin 16 → Block} {dst : Bank} {t : State} (hr : Running256 B dst t)
    (hidle : t.busy .p256 = false) : BytesDone B 32 t := by
  obtain ⟨-, -, i, hi, hseq, hp⟩ := hr
  have hzero : t.p256.seq = seqCode .idle := by simpa [seqCode_idle] using hidle
  obtain rfl := hi.seqCode_inj (.idle _) (hseq.symm.trans hzero)
  exact hp

/-- Settles O55: each micro-operation does its part of `C256`, and what the host and P160 do in between, short of a reset,
leaves P256 and its footprint undisturbed. -/
theorem bt256UnderAnyInterleaving : Obligations.Bt256UnderAnyInterleaving := by
  intro s0 s t m hs0 hapart hacc hbusy hrun hidle hw i n hn
  have ht := (running256_of_accept hs0 hacc).run hapart hbusy hrun hw
  have hdone := ht.bytesDone hidle i n hn
  rwa [ht.dst_eq] at hdone

end Sys2Proof.Machine
end

section
/-! The encodings (30_encoding.md R80 to R90): what each of the three decoders accepts, stated once for each format, the name
under which it rejects the rest, and the statements O1 to O5 and O7. -/

namespace Sys2Proof.Machine

open Sys2Proof

/-! ## Format C: command words -/

/-- The two command words (R82). -/
theorem decodeC_ok_iff {w : BitVec 32} {i : Instr} :
    decodeC w = .ok i ↔ (w = 1#32 ∧ i = .bt256) ∨ (w = 2#32 ∧ i = .bt160) := by
  constructor
  · intro h
    unfold decodeC at h
    split at h
    next hw =>
      cases h
      exact .inl ⟨hw, rfl⟩
    split at h
    next hw =>
      cases h
      exact .inr ⟨hw, rfl⟩
    · cases h
  · rintro (⟨rfl, rfl⟩ | ⟨rfl, rfl⟩) <;> rfl

/-- A rejected command word is a reserved command (R86). -/
theorem decodeC_error {w : BitVec 32} {e : Reject} (h : decodeC w = .error e) : e = .reservedCommand := by
  unfold decodeC at h
  split at h
  · cases h
  split at h
  · cases h
  · exact (Except.error.inj h).symm

/-! ## Format Q: sequencer positions -/

/-- Every phase belongs to a pipeline (R84). -/
theorem exists_phaseBelongs (phase : BitVec 4) : ∃ p, phaseBelongs p phase = true := by
  obtain h | h := Nat.lt_or_ge phase.toNat 8
  · exact ⟨.p256, decide_eq_true h⟩
  · exact ⟨.p160, decide_eq_true (.inr h)⟩

/-- A position decodes to what it names in the sequencer it belongs to (R84). -/
theorem decodeQ_ok_iff_decodeSeq {q : BitVec 11} {i : Instr} : decodeQ q = .ok i ↔ ∃ p, decodeSeq p q = .ok i := by
  constructor
  · intro h
    obtain ⟨p, hp⟩ := exists_phaseBelongs (q.extractLsb' 7 4)
    exact ⟨p, by rw [decodeSeq, if_pos hp, h]⟩
  · rintro ⟨p, h⟩
    rwa [decodeSeq, if_pos (decodeSeq_ok h).1] at h

/-- The positions are those that name a micro-operation of one of the pipelines (R85). -/
theorem decodeQ_ok_iff {q : BitVec 11} {i : Instr} : decodeQ q = .ok i ↔ ∃ p, Micro p i ∧ q = seqCode i := by
  rw [decodeQ_ok_iff_decodeSeq]
  refine exists_congr fun p => ⟨fun h => ⟨micro_of_decodeSeq h, seqCode_of_decodeSeq h⟩, ?_⟩
  rintro ⟨hi, rfl⟩
  exact decodeSeq_seqCode hi

/-- A rejected position is a reserved one (R86). -/
theorem decodeQ_error {q : BitVec 11} {e : Reject} (h : decodeQ q = .error e) : e = .reservedPosition := by
  unfold decodeQ at h
  split at h
  · split at h
    · cases h
    · exact (Except.error.inj h).symm
  · exact (Except.error.inj h).symm

/-- A micro-operation is encoded by the position that names it (R85). -/
theorem Micro.encode_eq {p : Pipe} {i : Instr} (h : Micro p i) : encode i = .seq (seqCode i) := by
  cases h <;> rfl

/-- The two fields of a position can be told from it (R84). -/
theorem position_inj {phase phase' : BitVec 4} {idx idx' : BitVec 7} (h : position phase idx = position phase' idx') :
    phase = phase' ∧ idx = idx' :=
  ⟨by simpa using congrArg (·.extractLsb' 7 4) h, by simpa using congrArg (·.extractLsb' 0 7) h⟩

/-! ## Format A: register accesses -/

/-- The offset of register `i` of a bank (R90). -/
def pointerOffset (bank : BitVec 2) (i : BitVec 4) : BitVec 64 := 0x080#64 * bank.setWidth 64 + 8#64 * i.setWidth 64

theorem pointerOffset_toNat (bank : BitVec 2) (i : BitVec 4) :
    (pointerOffset bank i).toNat = 0x080 * bank.toNat + 8 * i.toNat := by
  unfold pointerOffset
  bv_omega

/-- The bank field of an offset (R90). -/
theorem pointerOffset_bank (bank : BitVec 2) (i : BitVec 4) : (pointerOffset bank i).extractLsb' 7 2 = bank := by
  apply BitVec.eq_of_toNat_eq
  rw [BitVec.extractLsb'_toNat, Nat.shiftRight_eq_div_pow, pointerOffset_toNat]
  omega

/-- The register field of an offset (R90). -/
theorem pointerOffset_index (bank : BitVec 2) (i : BitVec 4) : (pointerOffset bank i).extractLsb' 3 4 = i := by
  apply BitVec.eq_of_toNat_eq
  rw [BitVec.extractLsb'_toNat, Nat.shiftRight_eq_div_pow, pointerOffset_toNat]
  omega

/-- A pointer register's offset is naturally aligned, below CMD (R90). -/
theorem pointerOffset_lt_and_aligned (bank : BitVec 2) (i : BitVec 4) :
    (pointerOffset bank i).toNat < 0x200 ∧ (pointerOffset bank i).toNat % 8 = 0 := by
  rw [pointerOffset_toNat]
  omega

/-- The aligned offsets below CMD are those of the pointer registers (R90). -/
theorem pointerOffset_fields {off : BitVec 64} (hlt : off.toNat < 0x200) (hal : off.toNat % 8 = 0) :
    off = pointerOffset (off.extractLsb' 7 2) (off.extractLsb' 3 4) := by
  apply BitVec.eq_of_toNat_eq
  rw [pointerOffset_toNat, BitVec.extractLsb'_toNat, BitVec.extractLsb'_toNat, Nat.shiftRight_eq_div_pow,
    Nat.shiftRight_eq_div_pow]
  omega

/-- R90's map: the accesses that name a register, each with its row. -/
inductive Access : BusReq → Instr → Prop
  | pointerWrite (bank : BitVec 2) (i : BitVec 4) (v : BitVec 64) :
    Access ⟨.write, .w64, pointerOffset bank i, v⟩ (pointerWrite bank i v)
  | pointerRead (bank : BitVec 2) (i : BitVec 4) (v : BitVec 64) :
    Access ⟨.read, .w64, pointerOffset bank i, v⟩ (pointerRead bank i)
  | cmdWrite (v : BitVec 64) : Access ⟨.write, .w32, 0x200#64, v⟩ (.wr32Cmd (v.extractLsb' 0 32))
  | cmdRead (v : BitVec 64) : Access ⟨.read, .w32, 0x200#64, v⟩ .rd32Cmd
  | statusWrite (v : BitVec 64) : Access ⟨.write, .w32, 0x208#64, v⟩ (.wr32Status (v.extractLsb' 0 32))
  | statusRead (v : BitVec 64) : Access ⟨.read, .w32, 0x208#64, v⟩ .rd32Status

/-- The decoder accepts only what R90 maps. -/
theorem access_of_decodeA {r : BusReq} {i : Instr} (h : decodeA r = .ok i) : Access r i := by
  obtain ⟨kind, width, off, v⟩ := r
  cases width with
  | w8 => cases h
  | w16 => cases h
  | w32 =>
    simp only [decodeA] at h
    split at h
    next ho =>
      subst ho
      cases kind <;> cases h
      · exact .cmdRead v
      · exact .cmdWrite v
    split at h
    next ho =>
      subst ho
      cases kind <;> cases h
      · exact .statusRead v
      · exact .statusWrite v
    · cases h
  | w64 =>
    simp only [decodeA] at h
    split at h
    next ho =>
      have hoff := pointerOffset_fields ho.1 ho.2
      generalize off.extractLsb' 7 2 = bank at h hoff
      generalize off.extractLsb' 3 4 = k at h hoff
      subst hoff
      cases kind <;> cases h
      · exact .pointerRead bank k v
      · exact .pointerWrite bank k v
    · cases h

/-- The decoder accepts all that R90 maps. -/
theorem Access.decodeA_eq {r : BusReq} {i : Instr} (h : Access r i) : decodeA r = .ok i := by
  cases h with
  | pointerWrite bank k | pointerRead bank k =>
    simp only [decodeA, if_pos (pointerOffset_lt_and_aligned bank k), pointerOffset_bank, pointerOffset_index]
  | cmdWrite | cmdRead | statusWrite | statusRead => rfl

/-- A rejected access is a bad register access (R86). -/
theorem decodeA_error {r : BusReq} {e : Reject} (h : decodeA r = .error e) : e = .badRegisterAccess := by
  obtain ⟨kind, width, off, v⟩ := r
  cases width with simp only [decodeA] at h
  | w8 | w16 => exact (Except.error.inj h).symm
  | w32 =>
    split at h
    · cases kind <;> cases h
    split at h
    · cases kind <;> cases h
    · exact (Except.error.inj h).symm
  | w64 =>
    split at h
    · cases kind <;> cases h
    · exact (Except.error.inj h).symm

/-- The four banks (R90). -/
theorem bank_cases (bank : BitVec 2) : bank = 0#2 ∨ bank = 1#2 ∨ bank = 2#2 ∨ bank = 3#2 := by
  revert bank
  decide

/-- A pointer-write row is encoded by a 64-bit write to its register's offset (R90). -/
theorem encode_pointerWrite (bank : BitVec 2) (i : BitVec 4) (v : BitVec 64) :
    encode (pointerWrite bank i v) = .bus ⟨.write, .w64, pointerOffset bank i, v⟩ := by
  obtain rfl | rfl | rfl | rfl := bank_cases bank <;> rfl

/-- A pointer-read row is encoded by a 64-bit read of its register's offset (R90). -/
theorem encode_pointerRead (bank : BitVec 2) (i : BitVec 4) :
    encode (pointerRead bank i) = .bus ⟨.read, .w64, pointerOffset bank i, 0#64⟩ := by
  obtain rfl | rfl | rfl | rfl := bank_cases bank <;> rfl

/-! ## Encoding and decoding -/

/-- The encoding of a micro-operation decodes to it (R85). -/
theorem Micro.decode_encode {p : Pipe} {i : Instr} (h : Micro p i) : decode (encode i) = .ok i := by
  rw [h.encode_eq]
  exact decodeQ_ok_iff.2 ⟨p, h, rfl⟩

/-- The encoding of a pointer write decodes to it (R90). -/
theorem decode_encode_pointerWrite (bank : BitVec 2) (i : BitVec 4) (v : BitVec 64) :
    decode (encode (pointerWrite bank i v)) = .ok (pointerWrite bank i v) := by
  rw [encode_pointerWrite]
  exact (Access.pointerWrite bank i v).decodeA_eq

/-- The encoding of a pointer read decodes to it (R90). -/
theorem decode_encode_pointerRead (bank : BitVec 2) (i : BitVec 4) :
    decode (encode (pointerRead bank i)) = .ok (pointerRead bank i) := by
  rw [encode_pointerRead]
  exact (Access.pointerRead bank i 0#64).decodeA_eq

/-- The low half of a bus word that holds a 32-bit word is that word. -/
theorem extractLsb'_setWidth_word (w : BitVec 32) : (w.setWidth 64).extractLsb' 0 32 = w := by
  simp [BitVec.extractLsb'_setWidth_of_le]

/-- A bus word whose upper half is zero is its low half, zero-extended. -/
theorem setWidth_extractLsb'_word {v : BitVec 64} (h : v.toNat < 2 ^ 32) : (v.extractLsb' 0 32).setWidth 64 = v := by
  apply BitVec.eq_of_toNat_eq
  rw [BitVec.toNat_setWidth, BitVec.extractLsb'_toNat, Nat.shiftRight_zero, Nat.mod_eq_of_lt h, Nat.mod_eq_of_lt v.isLt]

/-- Settles O1, format by format: a command word by evaluation, a position as a micro-operation's (R85), an access as one
that R90 maps. -/
theorem decodeEncodeRoundTrip : Obligations.DecodeEncodeRoundTrip := by
  intro i hw
  cases i with
  | bt256 | bt160 => rfl
  | idle => exact (Micro.idle .p256).decode_encode
  | ldwBE j => exact (Micro.ldwBE (of_decide_eq_true hw)).decode_encode
  | init256 => exact Micro.init256.decode_encode
  | exp256 t => exact (Micro.exp256 (of_decide_eq_true hw).1 (of_decide_eq_true hw).2).decode_encode
  | rnd256 t => exact (Micro.rnd256 (of_decide_eq_true hw)).decode_encode
  | fin256 => exact Micro.fin256.decode_encode
  | stwBE k => exact (Micro.stwBE (of_decide_eq_true hw)).decode_encode
  | pad160 => exact Micro.pad160.decode_encode
  | ldwLE j => exact (Micro.ldwLE (of_decide_eq_true hw)).decode_encode
  | init160 => exact Micro.init160.decode_encode
  | rnd160L1 j => exact (Micro.rnd160L1 (of_decide_eq_true hw)).decode_encode
  | rnd160L2 j => exact (Micro.rnd160L2 (of_decide_eq_true hw)).decode_encode
  | comb160 => exact Micro.comb160.decode_encode
  | stwLE k => exact (Micro.stwLE (of_decide_eq_true hw)).decode_encode
  | wr64P256Src i v => exact decode_encode_pointerWrite 0#2 i v
  | wr64P256Dst i v => exact decode_encode_pointerWrite 1#2 i v
  | wr64P160Src i v => exact decode_encode_pointerWrite 2#2 i v
  | wr64P160Dst i v => exact decode_encode_pointerWrite 3#2 i v
  | rd64P256Src i => exact decode_encode_pointerRead 0#2 i
  | rd64P256Dst i => exact decode_encode_pointerRead 1#2 i
  | rd64P160Src i => exact decode_encode_pointerRead 2#2 i
  | rd64P160Dst i => exact decode_encode_pointerRead 3#2 i
  | wr32Cmd w =>
    have h := (Access.cmdWrite (w.setWidth 64)).decodeA_eq
    rwa [extractLsb'_setWidth_word] at h
  | rd32Cmd => exact (Access.cmdRead 0#64).decodeA_eq
  | rd32Status => exact (Access.statusRead 0#64).decodeA_eq
  | wr32Status w =>
    have h := (Access.statusWrite (w.setWidth 64)).decodeA_eq
    rwa [extractLsb'_setWidth_word] at h

/-- Settles O2, from what each of the three decoders accepts. -/
theorem encodeDecodeRoundTrip : Obligations.EncodeDecodeRoundTrip := by
  refine ⟨fun w i h => ?_, fun q i h => ?_, fun r i hk hz h => ?_⟩
  · obtain ⟨rfl, rfl⟩ | ⟨rfl, rfl⟩ := decodeC_ok_iff.1 h <;> rfl
  · obtain ⟨p, hi, rfl⟩ := decodeQ_ok_iff.1 h
    exact hi.encode_eq
  · cases access_of_decodeA h with
    | pointerWrite bank k v => exact encode_pointerWrite bank k v
    | cmdWrite v | statusWrite v => simp only [encode, setWidth_extractLsb'_word (hz rfl)]
    | pointerRead | cmdRead | statusRead => cases hk

/-- Settles O3: a decoder that rejects, rejects under its format's name, and what it accepts stands in the tables of R82, R85
and R90. -/
theorem reservedEncodingsRejected : Obligations.ReservedEncodingsRejected := by
  refine ⟨fun w h1 h2 => ?_, fun phase idx hn => ?_, fun r hn => ?_⟩
  · cases h : decode (.cmd w) with
    | error e => rw [decodeC_error h]
    | ok i =>
      obtain ⟨rfl, -⟩ | ⟨rfl, -⟩ := decodeC_ok_iff.1 h
      · exact absurd rfl h1
      · exact absurd rfl h2
  · cases h : decode (.seq (position phase idx)) with
    | error e => rw [decodeQ_error h]
    | ok i =>
      obtain ⟨p, hi, hq⟩ := decodeQ_ok_iff.1 h
      refine absurd ?_ hn
      cases hi with obtain ⟨rfl, rfl⟩ := position_inj hq
      | idle | init256 | fin256 | pad160 | init160 | comb160 => simp
      | ldwBE hidx | rnd256 hidx | stwBE hidx | ldwLE hidx | rnd160L1 hidx | rnd160L2 hidx | stwLE hidx => simp [hidx]
      | exp256 hlo hhi => simp [hlo, hhi]
  · cases h : decode (.bus r) with
    | error e => rw [decodeA_error h]
    | ok i =>
      refine absurd ?_ hn
      cases access_of_decodeA h with
      | pointerWrite bank k v | pointerRead bank k v =>
        exact .inl ⟨rfl, pointerOffset_lt_and_aligned bank k⟩
      | cmdWrite v | cmdRead v => exact .inr ⟨rfl, .inl rfl⟩
      | statusWrite v | statusRead v => exact .inr ⟨rfl, .inr rfl⟩

/-- A 64-bit access at the number of a pointer register's offset decodes to the register's rows (R90). -/
theorem decode_pointer {bank : BitVec 2} {i : BitVec 4} {off : BitVec 64}
    (h : off.toNat = 0x080 * bank.toNat + 8 * i.toNat) (v : BitVec 64) :
    decode (.bus ⟨.write, .w64, off, v⟩) = .ok (pointerWrite bank i v) ∧
      decode (.bus ⟨.read, .w64, off, v⟩) = .ok (pointerRead bank i) := by
  obtain rfl : off = pointerOffset bank i := BitVec.eq_of_toNat_eq (h.trans (pointerOffset_toNat bank i).symm)
  exact ⟨(Access.pointerWrite bank i v).decodeA_eq, (Access.pointerRead bank i v).decodeA_eq⟩

/-- Settles O4: the four banks stand 0x080 apart, and CMD and STATUS are the two 32-bit registers. -/
theorem registerMapDecodes : Obligations.RegisterMapDecodes :=
  ⟨fun _ v _ => ⟨fun h => decode_pointer (bank := 0#2) h v, fun h => decode_pointer (bank := 1#2) h v,
      fun h => decode_pointer (bank := 2#2) h v, fun h => decode_pointer (bank := 3#2) h v⟩,
    fun v => ⟨(Access.cmdWrite v).decodeA_eq, (Access.cmdRead v).decodeA_eq, (Access.statusWrite v).decodeA_eq,
      (Access.statusRead v).decodeA_eq⟩⟩

/-- Settles O5, by evaluating the decoder on the six encodings. -/
theorem sampleWordsDecode : Obligations.SampleWordsDecode :=
  ⟨rfl, rfl, rfl, rfl, rfl, rfl⟩

/-! ## Turns at a rejected encoding -/

/-- Something that the decoder rejects is refused under its name (R86). -/
theorem runDecoded_error {d : Except Reject Instr} {r : Reject} (h : d = .error r) (s : State) :
    runDecoded d s = .refused (Refusal.ofReject r) := by
  rw [h, runDecoded]

/-- Settles O7: `step_cons` takes the turn, and `runDecoded_error` refuses what it finds there. -/
theorem rejectedEncodingsRefuseTheStep : Obligations.RejectedEncodingsRefuseTheStep := by
  refine ⟨fun s p rest r ht hd => ?_, fun s rest w acts r ht ha hd => ?_, fun s rest b acts r ht ha hd => ?_⟩
  · rw [step_cons ht, agentTurn_agentOf]
    exact runDecoded_error (by rwa [← s.withTurns_seqOf rest p] at hd) _
  · rw [step_cons ht]
    exact (hostTurn_cons (s := { s with turns := rest }) ha).trans (runDecoded_error hd _)
  · rw [step_cons ht]
    exact (hostTurn_cons (s := { s with turns := rest }) ha).trans (runDecoded_error hd _)

end Sys2Proof.Machine
end

section
/-! The host's own actions (30_encoding.md R91, R92): a store, a load and a wait that complete, and the statements O36, O37
and O39. -/

namespace Sys2Proof.Machine

open Sys2Proof

/-- An access that keeps off a command's bytes while its window is open does not race (R57 item 3). -/
theorem racesWith_of_keepsOff {s : State} {p : Pipe} {rs : List (Nat × Nat)} {touched : Nat → Prop} {a n : Nat}
    (h : ∀ b, RangesCover rs b ↔ touched b) (hk : KeepsOff (s.awaiting p) touched a n) :
    s.racesWith p rs (a, n) = false :=
  Bool.eq_false_iff.2 fun hr => (racesWith_iff_not_keepsOff h).1 hr hk

/-- A store of ordinary memory that races with no command writes its bytes (R91). -/
theorem hostStore_completes {a : Nat} {bs : List Byte} {s : State} (hv : s.platform.ValidRange a bs.length)
    (h256 : s.racesWith .p256 (s.footprint .p256) (a, bs.length) = false)
    (h160 : s.racesWith .p160 (s.footprint .p160) (a, bs.length) = false) :
    hostStore a bs s = .next { s with mem := Memory.writeBytes s.mem a bs } := by
  simp [hostStore, validRange_iff.2 hv, h256, h160]

/-- A load of ordinary memory that races with no command returns its bytes (R91). -/
theorem hostLoad_completes {a n : Nat} {s : State} (hv : s.platform.ValidRange a n)
    (h256 : s.racesWith .p256 (s.writeRanges .p256) (a, n) = false)
    (h160 : s.racesWith .p160 (s.writeRanges .p160) (a, n) = false) :
    hostLoad a n s = .next (s.withLdata (Memory.readBytes s.mem a n)) := by
  simp [hostLoad, validRange_iff.2 hv, h256, h160]

@[simp] theorem Memory.readBytes_length (m : List Host.Cell) (a n : Nat) : (Memory.readBytes m a n).length = n := by
  simp [Memory.readBytes]

theorem Memory.readBytes_getD (m : List Host.Cell) (a : Nat) {n k : Nat} (h : k < n) :
    (Memory.readBytes m a n).getD k 0 = Memory.read m (a + k) := by
  simp [Memory.readBytes, h]

/-- Settles O36: the store completes, and `Memory.read_writeBytes` says what memory then holds. -/
theorem hostStoreWritesItsBytes : Obligations.HostStoreWritesItsBytes := by
  intro a bs s hv hm h256 h160
  have hstore := hostStore_completes hv (racesWith_of_keepsOff (fun _ => footprint256_iff) h256)
    (racesWith_of_keepsOff (fun _ => footprint160_iff) h160)
  refine ⟨_, hstore, fun k hk => ?_, fun b hb => ?_, rfl⟩
  · rw [Memory.read_writeBytes hm.1, if_pos ⟨by omega, by omega⟩, Nat.add_sub_cancel_left]
  · rw [Memory.read_writeBytes hm.1, if_neg hb]

/-- Settles O37: the load completes, and returns what `Memory.readBytes` reads. -/
theorem hostLoadReturnsItsBytes : Obligations.HostLoadReturnsItsBytes := by
  intro a n s hv h256 h160
  have hload := hostLoad_completes hv (racesWith_of_keepsOff (fun _ => writes256_iff) h256)
    (racesWith_of_keepsOff (fun _ => writes160_iff) h160)
  exact ⟨_, hload, Memory.readBytes_length .., fun _ hk => Memory.readBytes_getD s.mem a hk, rfl⟩

/-- What one poll leaves: the STATUS word read, the windows of idle pipelines closed, and the wait pending again while its
pipeline is busy (R92). -/
theorem poll_next (p : Pipe) (again : HostAction) (s : State) :
    poll p again s = .next { s with host := { s.host with
      program := if s.busy p then again :: s.host.program else s.host.program
      rdata := s.statusWord.setWidth 64
      await256 := s.host.await256 && s.busy .p256
      await160 := s.host.await160 && s.busy .p160 } } := by
  obtain ⟨t, ht, h⟩ := poll_eq p again s
  cases ht
  rw [h]
  split <;> rfl

/-- The bits of the word that a read of STATUS returns (R23). -/
theorem statusWord_setWidth_getLsbD (s : State) (n : Nat) : (s.statusWord.setWidth 64).getLsbD n =
    (decide (n = 0 ∧ s.busy .p256 = true) || decide (n = 1 ∧ s.busy .p160 = true)) := by
  obtain ⟨t, ht, hbits, -⟩ := statusReadReturnsTheBusyBits s
  cases ht
  simpa using hbits n

/-- Settles O39: `poll_next` is the state the wait leaves. -/
theorem waitPollsUntilTheBusyBitIsZero : Obligations.WaitPollsUntilTheBusyBitIsZero := by
  intro s h p hp
  have hact : hostAct h s = poll p h s := by obtain ⟨rfl, rfl⟩ | ⟨rfl, rfl⟩ := hp <;> rfl
  exact ⟨_, hact.trans (poll_next p h s), statusWord_setWidth_getLsbD s, fun hb => if_neg (by simp [hb]),
    fun hb => if_pos hb, by simp, by simp, rfl⟩

end Sys2Proof.Machine
end

section
/-! The Batch Loader's two loads (40_batch_loader.md R110, R111, R114), and the statements O10 and O11. -/

namespace Sys2Proof.Machine

open Sys2Proof

/-- The number of a position, its two fields side by side (R84). -/
theorem position_eq_ofNat (phase : BitVec 4) (idx : BitVec 7) :
    position phase idx = BitVec.ofNat 11 (0x080 * phase.toNat + idx.toNat) := by
  have hnum : (position phase idx).toNat = 0x080 * phase.toNat + idx.toNat := by
    rw [position, BitVec.toNat_append, Nat.shiftLeft_eq, Nat.mul_comm, ← Nat.two_pow_add_eq_or_of_lt idx.isLt]
  rw [← hnum, BitVec.ofNat_toNat, BitVec.setWidth_eq]

/-- In a row of R85 whose last index is `last`, the index that has no successor is `last` (R183, R184). -/
theorem lt_last_iff_ne {j last : BitVec 7} (h : j.toNat ≤ last.toNat) : j.toNat < last.toNat ↔ ¬j = last := by
  rw [← BitVec.toNat_inj]
  omega

/-- The position after `LDW.BE j` (R183). -/
theorem seqCode_nextMicro_ldwBE {j : BitVec 7} (h : j.toNat ≤ 15) :
    seqCode (nextMicro (.ldwBE j)) = if j = 15 then position 0x2 0 else position 0x1 (j + 1) := by
  have hlast : j.toNat < 15 ↔ ¬j = 15 := lt_last_iff_ne (last := 15) h
  simp only [nextMicro, hlast, ite_not]
  split <;> rfl

/-- The position after `LDW.LE j` (R184). -/
theorem seqCode_nextMicro_ldwLE {j : BitVec 7} (h : j.toNat ≤ 15) :
    seqCode (nextMicro (.ldwLE j)) = if j = 15 then position 0xA 0 else position 0x9 (j + 1) := by
  have hlast : j.toNat < 15 ↔ ¬j = 15 := lt_last_iff_ne (last := 15) h
  simp only [nextMicro, hlast, ite_not]
  split <;> rfl

/-- Byte `n` of a word loaded big-endian (R51, R114). -/
theorem readWord_big_byte (m : List Host.Cell) (a : Nat) {n : Nat} (h : n < 4) :
    (Memory.readWord .big m a).extractLsb' (24 - 8 * n) 8 = Memory.read m (a + n) := by
  obtain ⟨h0, h1, h2, h3⟩ :=
    be32_byte (Memory.read m a) (Memory.read m (a + 1)) (Memory.read m (a + 2)) (Memory.read m (a + 3))
  interval_cases n
  exacts [h0, h1, h2, h3]

/-- Byte `n` of a word loaded little-endian, which is the big-endian word of the bytes in the opposite order (R51, R114). -/
theorem readWord_little_byte (m : List Host.Cell) (a : Nat) {n : Nat} (h : n < 4) :
    (Memory.readWord .little m a).extractLsb' (8 * n) 8 = Memory.read m (a + n) := by
  obtain ⟨h3, h2, h1, h0⟩ :=
    be32_byte (Memory.read m (a + 3)) (Memory.read m (a + 2)) (Memory.read m (a + 1)) (Memory.read m a)
  interval_cases n
  exacts [h0, h1, h2, h3]

/-- A lane of the vector that a load has put into a file (R112). -/
theorem nth_setNth_gather_lane {k t : Nat} (v : Vector Vec k) (ht : t < k) (s : State) (o : ByteOrder) (b : Bank) (off : Nat)
    (i : Fin 16) : (nth (setNth v t (s.gather o b off)) t)[i] = Memory.readWord o s.mem (b.addr i + off) := by
  rw [nth_setNth_self _ _ ht, Fin.getElem_fin, gather_lane]

/-- Settles O10: `LDW.BE j` replaces `W[j]` by the gathered words and advances the sequencer. -/
theorem ldwBELoadsBigEndianWords : Obligations.LdwBELoadsBigEndianWords := by
  intro j s hj hv
  refine ⟨congrArg Code.seq (position_eq_ofNat 0x1 j), ?_⟩
  obtain ⟨t, ht⟩ := ldwBE_completes hj hv
  obtain ⟨-, -, rfl⟩ := execLdwBE_next ht
  refine ⟨_, ht, fun i n hn => ?_, fun u hu => nth_setNth_ne _ _ hu, seqCode_nextMicro_ldwBE hj, rfl, fun _ => rfl⟩
  have hlane := nth_setNth_gather_lane s.p256.w (t := j.toNat) (by omega) s .big s.p256.src (4 * j.toNat) i
  exact (congrArg (BitVec.extractLsb' (24 - 8 * n) 8) hlane).trans (readWord_big_byte s.mem _ hn)

/-- Settles O11: `LDW.LE j` replaces `X[j]` by the gathered words and advances the sequencer. -/
theorem ldwLELoadsLittleEndianWords : Obligations.LdwLELoadsLittleEndianWords := by
  intro j s hj hv
  refine ⟨congrArg Code.seq (position_eq_ofNat 0x9 j), ?_⟩
  obtain ⟨t, ht⟩ := ldwLE_completes hj hv
  obtain ⟨-, -, rfl⟩ := execLdwLE_next ht
  refine ⟨_, ht, fun i n hn => ?_, fun u hu => nth_setNth_ne _ _ hu, seqCode_nextMicro_ldwLE hj, rfl, fun _ => rfl⟩
  have hlane := nth_setNth_gather_lane s.p160.x (t := j.toNat) (by omega) s .little s.p160.src (4 * j.toNat) i
  exact (congrArg (BitVec.extractLsb' (8 * n) 8) hlane).trans (readWord_little_byte s.mem _ hn)

end Sys2Proof.Machine
end

section
/-! The 256-bit engine's micro-operations (41_engine256.md R124 to R127), `INIT160` (42_engine160.md R147), and the statements
O12 to O15. -/

namespace Sys2Proof.Machine

open Sys2Proof

/-! ## The mixing functions of R123, as Lean's own rotations -/

theorem sig0_eq (x : Word) : sig0 x = x.rotateRight 7 ^^^ x.rotateRight 18 ^^^ x >>> 3 := by
  simp [sig0, rotr_eq_rotateRight, shr]

theorem sig1_eq (x : Word) : sig1 x = x.rotateRight 17 ^^^ x.rotateRight 19 ^^^ x >>> 10 := by
  simp [sig1, rotr_eq_rotateRight, shr]

theorem bigSig0_eq (x : Word) : bigSig0 x = x.rotateRight 2 ^^^ x.rotateRight 13 ^^^ x.rotateRight 22 := by
  simp [bigSig0, rotr_eq_rotateRight]

theorem bigSig1_eq (x : Word) : bigSig1 x = x.rotateRight 6 ^^^ x.rotateRight 11 ^^^ x.rotateRight 25 := by
  simp [bigSig1, rotr_eq_rotateRight]

/-! ## The positions that follow -/

/-- The position after `EXP256 t` (R183). -/
theorem seqCode_nextMicro_exp256 {t : BitVec 7} (h : t.toNat ≤ 63) :
    seqCode (nextMicro (.exp256 t)) = if t = 63 then position 0x4 0 else position 0x3 (t + 1) := by
  have hlast : t.toNat < 63 ↔ ¬t = 63 := lt_last_iff_ne (last := 63) h
  simp only [nextMicro, hlast, ite_not]
  split <;> rfl

/-- The position after `RND256 t` (R183). -/
theorem seqCode_nextMicro_rnd256 {t : BitVec 7} (h : t.toNat ≤ 63) :
    seqCode (nextMicro (.rnd256 t)) = if t = 63 then position 0x5 0 else position 0x4 (t + 1) := by
  have hlast : t.toNat < 63 ↔ ¬t = 63 := lt_last_iff_ne (last := 63) h
  simp only [nextMicro, hlast, ite_not]
  split <;> rfl

/-! ## The micro-operations -/

/-- A lane of the vectors that `INIT160` sets (R147). -/
theorem nth_init160_lane {k : Nat} (hk : k < 5) (i : Fin 16) :
    (nth (Vector.ofFn fun j : Fin 5 => bcast (iv160 j)) k)[i] = iv160 k := by
  rw [nth_ofFn _ _ hk, Fin.getElem_fin, bcast_lane]

/-- Settles O12: each lane of each state vector is a table entry. -/
theorem initSetsTheInitialConstants : Obligations.InitSetsTheInitialConstants := by
  refine ⟨rfl, rfl, fun s => ⟨_, rfl, fun i => Hash256.mk.inj (laneHash_init i), rfl, rfl, fun _ => rfl⟩,
    fun s => ⟨_, rfl, fun l hl i => ?_, rfl, rfl, fun _ => rfl⟩⟩
  have hlane : ∀ k, k < 5 → (nth l k)[i] = iv160 k := by
    obtain rfl | rfl := hl <;> exact fun k hk => nth_init160_lane hk i
  exact ⟨hlane 0 (by decide), hlane 1 (by decide), hlane 2 (by decide), hlane 3 (by decide), hlane 4 (by decide)⟩

/-- Settles O13: `EXP256 t` replaces `W[t]` by the vector of `expand256` and advances the sequencer. -/
theorem exp256ExtendsTheSchedule : Obligations.Exp256ExtendsTheSchedule := by
  intro t s hlo hhi
  refine ⟨congrArg Code.seq (position_eq_ofNat 0x3 t), _, indexCheck_passes ⟨hlo, hhi⟩ _, fun i => ?_,
    fun n hn => nth_setNth_ne _ _ hn, seqCode_nextMicro_exp256 hhi, rfl, fun _ => rfl⟩
  simp only [← sig0_eq, ← sig1_eq, ← expand256_getElem]
  exact congrArg (fun v : Vec => v[i]) (nth_setNth_self s.p256.w _ (by omega))

/-- Settles O14: in each lane `RND256 t` is one round on the lane's eight words, and it advances the sequencer. -/
theorem rnd256PerformsOneRound : Obligations.Rnd256PerformsOneRound := by
  intro t s ht
  refine ⟨congrArg Code.seq (position_eq_ofNat 0x4 t), _, indexCheck_passes ht _, fun i => ?_,
    seqCode_nextMicro_rnd256 ht, rfl, fun _ => rfl⟩
  simp only [← bigSig0_eq, ← bigSig1_eq]
  exact Hash256.mk.inj (laneHash_round (k256 t.toNat) (nth s.p256.w t.toNat) s.p256.s i)

/-- A lane of the vectors that `FIN256` leaves (R127). -/
theorem nth_final256_lane (v : Vector Vec 8) {k : Nat} (hk : k < 8) (i : Fin 16) :
    (nth (final256 v) k)[i] = (nth v k)[i] + iv256 k := by
  simp [final256, nth_eq _ hk]

/-- Settles O15: `FIN256` adds a table entry to each lane of each state vector, and addition of words is mod 2^32. -/
theorem fin256AddsTheInitialConstants : Obligations.Fin256AddsTheInitialConstants := by
  intro s
  refine ⟨rfl, _, rfl, fun i k hk => ?_, rfl, rfl, fun _ => rfl⟩
  exact (congrArg BitVec.toNat (nth_final256_lane s.p256.s hk i)).trans (BitVec.toNat_add _ _)

end Sys2Proof.Machine
end

section
/-! The constants of the 256-bit engine as roots of primes (41_engine256.md R121, R122), and the statement O21. -/

namespace Sys2Proof.Machine

open Sys2Proof

/-- The first 64 primes, in order (R121, R122). -/
def firstPrimes : List Nat :=
  [2, 3, 5, 7, 11, 13, 17, 19, 23, 29, 31, 37, 41, 43, 47, 53, 59, 61, 67, 71, 73, 79, 83, 89, 97, 101, 103, 107, 109, 113,
   127, 131, 137, 139, 149, 151, 157, 163, 167, 173, 179, 181, 191, 193, 197, 199, 211, 223, 227, 229, 233, 239, 241, 251,
   257, 263, 269, 271, 277, 281, 283, 293, 307, 311]

/-- Entry `t` of the list is a prime with `t` primes below it. -/
theorem firstPrimes_prime_and_count : ∀ t : Fin 64,
    (firstPrimes.getD t 0).Prime ∧ Nat.count Nat.Prime (firstPrimes.getD t 0) = t := by
  decide +kernel

theorem nth_prime_eq_firstPrimes {t : Nat} (h : t < 64) : Nat.nth Nat.Prime t = firstPrimes.getD t 0 := by
  obtain ⟨hprime, hcount⟩ := firstPrimes_prime_and_count ⟨t, h⟩
  rw [← Nat.nth_count hprime, hcount]

/-- `IV256[k]` as the low 32 bits of the root of the prime scaled by 2^64, which is the fractional part's first 32 bits
(R121). -/
theorem iv256_eq_sqrt : ∀ k : Fin 8, (iv256 k).toNat = Nat.sqrt (firstPrimes.getD k 0 * 2 ^ 64) % 2 ^ 32 := by
  decide +kernel

/-- `K256[t]` as the low 32 bits of the cube root of the prime scaled by 2^96, which is the fractional part's first 32 bits
(R122). -/
theorem k256_eq_nthRoot : ∀ t : Fin 64, (k256 t).toNat = Nat.nthRoot 3 (firstPrimes.getD t 0 * 2 ^ 96) % 2 ^ 32 := by
  decide +kernel

/-- Settles O21: the integer roots of the scaled primes, by Mathlib's bounds on `Nat.sqrt` and `Nat.nthRoot`. -/
theorem constants256AreRootsOfPrimes : Obligations.Constants256AreRootsOfPrimes := by
  constructor
  · intro k
    rw [nth_prime_eq_firstPrimes (k.isLt.trans (by decide))]
    exact ⟨_, Nat.sqrt_le' _, Nat.lt_succ_sqrt' _, iv256_eq_sqrt k⟩
  · intro t
    rw [nth_prime_eq_firstPrimes t.isLt]
    exact ⟨_, Nat.pow_nthRoot_le (.inl (by decide)), Nat.lt_pow_nthRoot_add_one (by decide) _, k256_eq_nthRoot t⟩

end Sys2Proof.Machine
end

section
/-! The 160-bit engine's micro-operations (42_engine160.md R142 to R150), and the statements O16 to O20 and O48. -/

namespace Sys2Proof.Machine

open Sys2Proof

/-- Settles O20: the sub-phases are permutations and the rotation amounts in range, by inspection of the tables. -/
theorem roundTablesAreInRange : Obligations.RoundTablesAreInRange := by
  constructor
  · decide
  · decide

/-! ## One round of a line, in one lane (R142, R148, R149) -/

/-- The rotation amounts of both lines are below the word size (R145). -/
theorem sl_lt_wordSize {j : Nat} (h : j ≤ 79) : sl1 j < 32 ∧ sl2 j < 32 := by
  obtain ⟨-, hl1, -, hl2⟩ := roundTablesAreInRange.2 ⟨j, by omega⟩
  exact ⟨Nat.lt_of_le_of_lt hl1 (by decide), Nat.lt_of_le_of_lt hl2 (by decide)⟩

/-- The function of line 1 by its sub-phase, F0 to F4 (R142). -/
theorem fLine1_eq (p : Nat) (x y z : Word) : fLine1 p x y z =
    if p = 0 then x ^^^ y ^^^ z
    else if p = 1 then (x &&& y) ||| (~~~x &&& z)
    else if p = 2 then (x ||| ~~~y) ^^^ z
    else if p = 3 then (x &&& z) ||| (y &&& ~~~z)
    else x ^^^ (y ||| ~~~z) := by
  match p with
  | 0 | 1 | 2 | 3 => rfl
  | p + 4 => simp [fLine1, fSel, f4]

/-- The function of line 2 by its sub-phase, F4 to F0 (R142). -/
theorem fLine2_eq (p : Nat) (x y z : Word) : fLine2 p x y z =
    if p = 0 then x ^^^ (y ||| ~~~z)
    else if p = 1 then (x &&& z) ||| (y &&& ~~~z)
    else if p = 2 then (x ||| ~~~y) ^^^ z
    else if p = 3 then (x &&& y) ||| (~~~x &&& z)
    else x ^^^ y ^^^ z := by
  match p with
  | 0 | 1 | 2 | 3 => rfl
  | p + 4 => simp [fLine2, fSel, f0]

/-- A line's state in one lane. -/
def laneLine (v : Vector Vec 5) (l : Fin 16) : Hash160 :=
  { a := (nth v 0)[l], b := (nth v 1)[l], c := (nth v 2)[l], d := (nth v 3)[l], e := (nth v 4)[l] }

/-- A round of a line in one lane (R148, R149). -/
theorem laneLine_round (f : Word → Word → Word → Word) (x : Vec) (k : Word) (r : Nat) (v : Vector Vec 5) (l : Fin 16) :
    laneLine (round160 f x k r v) l = roundWord160 f x[l] k r (laneLine v l) := by
  simp [laneLine, round160, roundWord160, nth_eq]

/-- A round of a line on the words of one lane, with Lean's own rotation (R8). -/
theorem roundWord160_eq (f : Word → Word → Word → Word) (x k : Word) {r : Nat} (hr : r < 32) (s : Hash160) :
    roundWord160 f x k r s =
      { a := s.e, b := (s.a + f s.b s.c s.d + x + k).rotateLeft r + s.e, c := s.b, d := s.c.rotateLeft 10, e := s.d } := by
  simp [roundWord160, rotl_eq_rotateLeft _ hr, rotl_eq_rotateLeft]

/-! ## The positions that follow -/

/-- The position after `RND160.L1 j` (R184). -/
theorem seqCode_nextMicro_rnd160L1 {j : BitVec 7} (h : j.toNat ≤ 79) :
    seqCode (nextMicro (.rnd160L1 j)) = if j = 79 then position 0xC 0 else position 0xB (j + 1) := by
  have hlast : j.toNat < 79 ↔ ¬j = 79 := lt_last_iff_ne (last := 79) h
  simp only [nextMicro, hlast, ite_not]
  split <;> rfl

/-- The position after `RND160.L2 j` (R184). -/
theorem seqCode_nextMicro_rnd160L2 {j : BitVec 7} (h : j.toNat ≤ 79) :
    seqCode (nextMicro (.rnd160L2 j)) = if j = 79 then position 0xD 0 else position 0xC (j + 1) := by
  have hlast : j.toNat < 79 ↔ ¬j = 79 := lt_last_iff_ne (last := 79) h
  simp only [nextMicro, hlast, ite_not]
  split <;> rfl

/-! ## The micro-operations -/

/-- P160's lane stores and the move of its sequencer change nothing but memory, the position and the count of draws. -/
theorem scatter_advance160_frame (s : State) (ws : List LaneWrite) (i : Instr) {t : State}
    (h : t = (s.scatter .p160 ws).advance .p160 i) :
    t = { s with mem := t.mem, p160 := { s.p160 with seq := t.p160.seq, draws := t.p160.draws } } := by
  subst h
  rfl

/-- Settles O16: a byte of the padding ends with PADTAIL's byte of a lane that writes it, so with the byte that all such
lanes agree on. -/
theorem pad160WritesPaddingAndLength : Obligations.Pad160WritesPaddingAndLength := by
  intro s hv hm byte
  obtain ⟨t, ht⟩ := pad160_completes hv
  obtain ⟨-, rfl⟩ := execPad160_next ht
  refine ⟨rfl, _, ht, fun i n hlo hhi hagree => ?_, fun a ha => ?_, rfl,
    scatter_advance160_frame s _ _ rfl⟩
  · obtain ⟨j, k, hk, haddr, hread⟩ := read_scatter_covered hm .p160 (b := s.p160.src) (off := 32) (n := 32)
      (a := s.p160.src.addr i + n) (bytes := fun _ => padTail) (fun _ => rfl) ⟨i, by omega, by omega⟩
    have hbyte : byte (32 + k) = byte n := hagree j (32 + k) (by omega) (by omega) (by omega)
    rw [State.advance_mem, hread, padTail_getD hk]
    exact hbyte
  · rw [State.advance_mem]
    exact read_scatter_laneWrites hm .p160 (fun _ => rfl) ha

/-- Settles O17: in each lane `RND160.L1 j` is one round on the lane's five words of line 1, and it advances the
sequencer. -/
theorem rnd160L1PerformsOneRound : Obligations.Rnd160L1PerformsOneRound := by
  intro j s hj
  refine ⟨congrArg Code.seq (position_eq_ofNat 0xB j), _, indexCheck_passes hj _, fun i => ?_,
    seqCode_nextMicro_rnd160L1 hj, rfl, fun _ => rfl⟩
  simp only [← fLine1_eq]
  exact Hash160.mk.inj ((laneLine_round ..).trans (roundWord160_eq _ _ _ (sl_lt_wordSize hj).1 (laneLine s.p160.l1 i)))

/-- Settles O18: in each lane `RND160.L2 j` is one round on the lane's five words of line 2, and it advances the
sequencer. -/
theorem rnd160L2PerformsOneRound : Obligations.Rnd160L2PerformsOneRound := by
  intro j s hj
  refine ⟨congrArg Code.seq (position_eq_ofNat 0xC j), _, indexCheck_passes hj _, fun i => ?_,
    seqCode_nextMicro_rnd160L2 hj, rfl, fun _ => rfl⟩
  simp only [← fLine2_eq]
  exact Hash160.mk.inj ((laneLine_round ..).trans (roundWord160_eq _ _ _ (sl_lt_wordSize hj).2 (laneLine s.p160.l2 i)))

/-- A lane of the combination of the two lines (R150). -/
theorem nth_combine160_lane (l1 l2 : Vector Vec 5) {k : Nat} (hk : k < 5) (i : Fin 16) :
    (nth (combine160 l1 l2) k)[i] =
      iv160 ((k + 1) % 5) + (nth l1 ((k + 2) % 5))[i] + (nth l2 ((k + 3) % 5))[i] := by
  simp [combine160, hk]

/-- Settles O19: `nth_combine160_lane` for each of the five entries. -/
theorem comb160CombinesTheLines : Obligations.Comb160CombinesTheLines := by
  intro s
  refine ⟨rfl, _, rfl, fun i => ?_, rfl, rfl, fun _ => rfl⟩
  have hlane := fun (k : Nat) (hk : k < 5) => nth_combine160_lane s.p160.l1 s.p160.l2 hk i
  exact ⟨hlane 0 (by decide), hlane 1 (by decide), hlane 2 (by decide), hlane 3 (by decide), hlane 4 (by decide)⟩

/-- Settles O48: a round of a line reads that line and the block words only, which the other line's round leaves. -/
theorem lineRoundsCommute : Obligations.LineRoundsCommute := by
  intro j k s a b c d ha hb hc hd
  obtain ⟨-, rfl⟩ := execRnd160L1_next ha
  obtain ⟨-, rfl⟩ := execRnd160L2_next hb
  obtain ⟨-, rfl⟩ := execRnd160L2_next hc
  obtain ⟨-, rfl⟩ := execRnd160L1_next hd
  exact ⟨rfl, rfl, rfl⟩

end Sys2Proof.Machine
end

section
/-! The digest extractor's micro-operations (43_digest_extractor.md R170 to R172), and the statements O22 and O23. -/

namespace Sys2Proof.Machine

open Sys2Proof

/-! ## The positions that follow -/

/-- The position after `STW.BE k` (R183). -/
theorem seqCode_nextMicro_stwBE {k : BitVec 7} (h : k.toNat ≤ 7) :
    seqCode (nextMicro (.stwBE k)) = if k = 7 then position 0x0 0 else position 0x6 (k + 1) := by
  have hlast : k.toNat < 7 ↔ ¬k = 7 := lt_last_iff_ne (last := 7) h
  simp only [nextMicro, hlast, ite_not]
  split <;> rfl

/-- The position after `STW.LE k` (R184). -/
theorem seqCode_nextMicro_stwLE {k : BitVec 7} (h : k.toNat ≤ 4) :
    seqCode (nextMicro (.stwLE k)) = if k = 4 then position 0x0 0 else position 0xE (k + 1) := by
  have hlast : k.toNat < 4 ↔ ¬k = 4 := lt_last_iff_ne (last := 4) h
  simp only [nextMicro, hlast, ite_not]
  split <;> rfl

/-! ## The micro-operations -/

/-- P256's lane stores and the move of its sequencer change nothing but memory, the position and the count of draws. -/
theorem scatter_advance256_frame (s : State) (ws : List LaneWrite) (i : Instr) {t : State}
    (h : t = (s.scatter .p256 ws).advance .p256 i) :
    t = { s with mem := t.mem, p256 := { s.p256 with seq := t.p256.seq, draws := t.p256.draws } } := by
  subst h
  rfl

/-- Where every lane that writes a byte writes the same value, the byte ends with that value: it is the byte of some lane
that writes it (R60), and all of these are equal. `byte j m` is byte `m` of lane `j`'s word in the stores' order (R51). -/
theorem read_scatter_wordWrites_of_agree {s : State} (hm : Memory.wf s.mem) (p : Pipe) {o : ByteOrder} {b : Bank}
    {v : Vec} {byte : Fin 16 → Nat → Byte} (hbyte : ∀ j m, m < 4 → (bytesOfWord o v[j]).getD m 0 = byte j m) (off : Nat)
    {i : Fin 16} {n : Nat} (hn : n < 4)
    (hagree : ∀ (j : Fin 16) (m : Nat), m < 4 → b.addr j + m = b.addr i + n → byte j m = byte i n) :
    Memory.read (s.scatter p (wordWrites o b off v)).mem (b.addr i + off + n) = byte i n := by
  obtain ⟨j, m, hlt, haddr, hread⟩ := read_scatter_wordWrites hm p o (b := b) (off := off) (a := b.addr i + off + n) v
    ⟨i, by omega, by omega⟩
  calc Memory.read (s.scatter p (wordWrites o b off v)).mem (b.addr i + off + n)
      = (bytesOfWord o v[j]).getD m 0 := hread
    _ = byte j m := hbyte j m hlt
    _ = byte i n := hagree j m hlt (by omega)

/-- Settles O22: `read_scatter_wordWrites_of_agree` with the big-endian bytes for the bytes that the lanes write,
`read_scatter_laneWrites` for the others. -/
theorem stwBEStoresBigEndianWords : Obligations.StwBEStoresBigEndianWords := by
  intro k s hk hv hm byte
  refine ⟨congrArg Code.seq (position_eq_ofNat 0x6 k), ?_⟩
  obtain ⟨t, ht⟩ := stwBE_completes hk hv
  obtain ⟨-, -, rfl⟩ := execStwBE_next ht
  refine ⟨_, ht, fun i n hn hagree => ?_, fun a ha => ?_, seqCode_nextMicro_stwBE hk, scatter_advance256_frame s _ _ rfl⟩
  · rw [State.advance_mem]
    exact read_scatter_wordWrites_of_agree hm .p256 (fun _ _ => bytesOfWord_big_getD _) _ hn hagree
  · rw [State.advance_mem]
    exact read_scatter_laneWrites hm .p256 (fun _ => bytesOfWord_length _ _) ha

/-- Settles O23: `read_scatter_wordWrites_of_agree` with the little-endian bytes for the bytes that the lanes write,
`read_scatter_laneWrites` for the others. -/
theorem stwLEStoresLittleEndianWords : Obligations.StwLEStoresLittleEndianWords := by
  intro k s hk hv hm byte
  refine ⟨congrArg Code.seq (position_eq_ofNat 0xE k), ?_⟩
  obtain ⟨t, ht⟩ := stwLE_completes hk hv
  obtain ⟨-, -, rfl⟩ := execStwLE_next ht
  refine ⟨_, ht, fun i n hn hagree => ?_, fun a ha => ?_, seqCode_nextMicro_stwLE hk, scatter_advance160_frame s _ _ rfl⟩
  · rw [State.advance_mem]
    exact read_scatter_wordWrites_of_agree hm .p160 (fun _ _ => bytesOfWord_little_getD _) _ hn hagree
  · rw [State.advance_mem]
    exact read_scatter_laneWrites hm .p160 (fun _ => bytesOfWord_length _ _) ha

end Sys2Proof.Machine
end

section
/-! Commands from their acceptance to their end (44_commands_and_sequencer.md R183 to R185): that no busy pipeline is stuck,
the listed sequences, the end of a run, and the statements O44, O45 and O54. -/

namespace Sys2Proof.Machine

open Sys2Proof

/-- Settles O44: while a pipeline is busy its command's preconditions hold, under which each of its micro-operations
completes. -/
theorem busyPipelineIsNeverStuck : Obligations.BusyPipelineIsNeverStuck :=
  fun _ _ hs hb => pipeTurn_completes hs hb

/-! ## The listed sequences, as iterations of the next-position functions -/

/-- R183's list is what its next-position function makes of its first position. -/
theorem sequence256_eq_iterate : sequence256 = List.iterate nextMicro (.ldwBE 0) 138 := by decide +kernel

/-- R184's list is what its next-position function makes of its first position. -/
theorem sequence160_eq_iterate : sequence160 = List.iterate nextMicro .pad160 184 := by decide +kernel

theorem length_sequence256 : sequence256.length = 138 := by rw [sequence256_eq_iterate, List.length_iterate]

theorem length_sequence160 : sequence160.length = 184 := by rw [sequence160_eq_iterate, List.length_iterate]

theorem sequenceOf_eq_iterate (p : Pipe) :
    sequenceOf p = List.iterate nextMicro (firstMicro p) (sequenceOf p).length := by
  cases p
  · rw [sequenceOf, length_sequence256]; exact sequence256_eq_iterate
  · rw [sequenceOf, length_sequence160]; exact sequence160_eq_iterate

theorem firstMicro_micro (p : Pipe) : Micro p (firstMicro p) := by
  cases p
  · exact .ldwBE (by decide)
  · exact .pad160

theorem Micro.iterate {p : Pipe} {i : Instr} (hi : Micro p i) (n : Nat) : Micro p (nextMicro^[n] i) := by
  induction n generalizing i with
  | zero => exact hi
  | succ n ih => exact ih hi.next

/-- The position after the last micro-operation of a command is IDLE (R183, R184). -/
theorem nextMicro_iterate_length (p : Pipe) : nextMicro^[(sequenceOf p).length] (firstMicro p) = .idle := by
  cases p
  · rw [sequenceOf, length_sequence256]; exact nextMicro_iterate_bt256
  · rw [sequenceOf, length_sequence160]; exact nextMicro_iterate_bt160

/-- The micro-operation that the list names after `k` of them is the `k`-th next one. -/
theorem sequenceOf_getD {p : Pipe} {k : Nat} (hk : k ≤ (sequenceOf p).length) :
    (sequenceOf p).getD k .idle = nextMicro^[k] (firstMicro p) := by
  obtain hlt | rfl := Nat.lt_or_eq_of_le hk
  · rw [List.getD_eq_getElem?_getD, sequenceOf_eq_iterate, List.getElem?_iterate _ _ _ _ hlt]
    rfl
  · rw [nextMicro_iterate_length, List.getD_eq_default _ _ le_rfl]

theorem positionAfter_eq {p : Pipe} {k : Nat} (hk : k ≤ (sequenceOf p).length) :
    positionAfter p k = seqCode (nextMicro^[k] (firstMicro p)) := by
  rw [positionAfter, sequenceOf_getD hk]

/-- IDLE is no entry of a listed sequence. -/
theorem idle_not_mem_sequenceOf (p : Pipe) : .idle ∉ sequenceOf p := by
  cases p <;> simp [sequenceOf, sequence256, sequence160]

/-- Every micro-operation of a pipeline but IDLE is listed in its command's sequence (R183, R184). -/
theorem Micro.mem_sequenceOf {p : Pipe} {i : Instr} (hi : Micro p i) (h : i ≠ .idle) : i ∈ sequenceOf p := by
  have hidx : ∀ {n : Nat} {j : BitVec 7}, j.toNat ≤ n → ∃ a, a < n + 1 ∧ BitVec.ofNat 7 a = j :=
    fun {n j} hj => ⟨j.toNat, by omega, by simp⟩
  cases hi with
  | idle => exact absurd rfl h
  | init256 | fin256 => simp [sequenceOf, sequence256]
  | pad160 | init160 | comb160 => simp [sequenceOf, sequence160]
  | ldwBE hj | rnd256 hj | stwBE hj => simpa [sequenceOf, sequence256] using hidx hj
  | ldwLE hj | rnd160L1 hj | rnd160L2 hj | stwLE hj => simpa [sequenceOf, sequence160] using hidx hj
  | @exp256 t hlo hhi =>
    have ht : ∃ a, a < 48 ∧ BitVec.ofNat 7 (16 + a) = t :=
      ⟨t.toNat - 16, by omega, by simp [Nat.add_sub_cancel' hlo]⟩
    simpa [sequenceOf, sequence256] using ht

/-- From any of its micro-operations a command comes to IDLE within its length. -/
theorem Micro.iterate_length {p : Pipe} {i : Instr} (hi : Micro p i) : nextMicro^[(sequenceOf p).length] i = .idle := by
  by_cases h : i = .idle
  · rw [h, Function.iterate_fixed rfl]
  · have hmem := hi.mem_sequenceOf h
    rw [sequenceOf_eq_iterate, List.mem_iterate] at hmem
    obtain ⟨k, -, rfl⟩ := hmem
    rw [← Function.iterate_add_apply, Nat.add_comm, Function.iterate_add_apply, nextMicro_iterate_length,
      Function.iterate_fixed rfl]

/-- Before its last position a command is not at IDLE. -/
theorem nextMicro_iterate_eq_idle_iff {p : Pipe} {k : Nat} (hk : k ≤ (sequenceOf p).length) :
    nextMicro^[k] (firstMicro p) = .idle ↔ k = (sequenceOf p).length := by
  constructor
  · intro h
    by_contra hne
    refine idle_not_mem_sequenceOf p ?_
    rw [sequenceOf_eq_iterate, List.mem_iterate]
    exact ⟨k, by omega, h.symm⟩
  · rintro rfl
    exact nextMicro_iterate_length p

/-! ## Turns of a pipeline, one after the other -/

/-- Turns go on from a first one that answers a next state. -/
theorem pipeTurns_succ {p : Pipe} {s u : State} (h : pipeTurn p s = .next u) (n : Nat) :
    pipeTurns p (n + 1) s = pipeTurns p n u := by
  simp only [pipeTurns, h]

/-- The induction over a pipeline's turns: what each micro-operation completes with and hands on to the next one, any number
of turns completes with. -/
theorem pipeTurns_induct {p : Pipe} {P : Instr → State → Prop}
    (hP : ∀ i u, Micro p i → u.seqOf p = seqCode i → P i u → ∃ v, exec i u = .next v ∧ P (nextMicro i) v) (n : Nat)
    {i : Instr} (hi : Micro p i) {s : State} (hs : s.seqOf p = seqCode i) (h : P i s) :
    ∃ t, pipeTurns p n s = .next t ∧ t.seqOf p = seqCode (nextMicro^[n] i) ∧ P (nextMicro^[n] i) t := by
  induction n generalizing i s with
  | zero => exact ⟨s, rfl, hs, h⟩
  | succ n ih =>
    obtain ⟨u, hu, hPu⟩ := hP i s hi hs h
    obtain ⟨t, ht, hrest⟩ := ih hi.next (exec_seqOf hi hs hu) hPu
    exact ⟨t, (pipeTurns_succ ((pipeTurn_at hi hs).trans hu) n).trans ht, hrest⟩

/-- A pipeline's turn completes in every state with the invariant, busy or not, and keeps the invariant. -/
theorem State.Inv.exec_completes {p : Pipe} {i : Instr} (hi : Micro p i) {s : State} (hs : s.Inv)
    (hseq : s.seqOf p = seqCode i) : ∃ t, exec i s = .next t ∧ t.Inv := by
  have hturn : ∃ t, Machine.pipeTurn p s = .next t := by
    by_cases hb : s.busy p = true
    · exact pipeTurn_completes hs hb
    · exact ⟨s, pipeTurn_of_not_busy hb⟩
  obtain ⟨t, ht⟩ := hturn
  exact ⟨t, by rw [← pipeTurn_at hi hseq, ht], hs.pipeTurn ht⟩

/-- Settles O45: by `pipeTurns_induct` with the invariant, the list being the iteration of `nextMicro`. -/
theorem commandsRunTheirListedSequences : Obligations.CommandsRunTheirListedSequences := by
  refine ⟨length_sequence256, length_sequence160, fun s p k hs h0 hk => ?_⟩
  have hfirst := firstMicro_micro p
  rw [positionAfter_eq (Nat.zero_le _)] at h0
  obtain ⟨t, ht, hseq, -⟩ := pipeTurns_induct (P := fun _ u => u.Inv) (fun i u hi hseq hu => hu.exec_completes hi hseq) k
    hfirst h0 hs
  refine ⟨t, ht, by rw [hseq, positionAfter_eq hk], ?_⟩
  have hidle : seqCode (nextMicro^[k] (firstMicro p)) = seqCode .idle ↔ k = (sequenceOf p).length :=
    ⟨fun h => (nextMicro_iterate_eq_idle_iff hk).1 ((hfirst.iterate k).seqCode_inj (.idle p) h),
      fun h => congrArg seqCode ((nextMicro_iterate_eq_idle_iff hk).2 h)⟩
  rw [busy_iff_seqOf, hseq, Ne, hidle]
  omega

/-! ## Free turns up to the end of a run -/

/-- The pipeline is at a position from which `n` of its turns lead to IDLE. -/
def State.TurnsLeft (s : State) (p : Pipe) (n : Nat) : Prop :=
  ∃ i, Micro p i ∧ s.seqOf p = seqCode i ∧ nextMicro^[n] i = .idle

/-- No more turns are left than the command has micro-operations (R185, R227). -/
theorem State.Inv.turnsLeft {s : State} (hs : s.Inv) (p : Pipe) : s.TurnsLeft p (sequenceOf p).length := by
  have hlegal : legalPosition p (s.seqOf p) = true := by
    cases p
    · exact hs.legal256
    · exact hs.legal160
  obtain ⟨i, hi, hseq⟩ := micro_of_legalPosition hlegal
  exact ⟨i, hi, hseq, hi.iterate_length⟩

/-- With no turns left the pipeline is not busy. -/
theorem State.TurnsLeft.idle {s : State} {p : Pipe} (h : s.TurnsLeft p 0) : s.busy p = false := by
  obtain ⟨i, -, hseq, rfl⟩ := h
  exact Bool.eq_false_iff.2 fun hb => busy_iff_seqOf.1 hb hseq

/-- A turn of the pipeline leaves one turn fewer. -/
theorem State.TurnsLeft.pipeTurn {s t : State} {p : Pipe} {n : Nat} (h : s.TurnsLeft p (n + 1))
    (ht : pipeTurn p s = .next t) : t.TurnsLeft p n := by
  obtain ⟨i, hi, hseq, hidle⟩ := h
  rw [pipeTurn_at hi hseq] at ht
  exact ⟨nextMicro i, hi.next, exec_seqOf hi hseq ht, hidle⟩

/-- A turn of a pipeline leaves the other pipeline's sequencer, the host and the turns alone (R206). -/
theorem pipeTurn_frame {p : Pipe} {s t : State} (h : pipeTurn p s = .next t) :
    t.seqOf (otherPipe p) = s.seqOf (otherPipe p) ∧ t.host = s.host ∧ t.turns = s.turns := by
  obtain ⟨i, hi, he⟩ := pipeTurn_next h
  cases p with
  | p256 =>
    obtain ⟨h160, hhost, -, hturns, -⟩ := exec256_frame hi he
    exact ⟨congrArg State160.seq h160, hhost, hturns⟩
  | p160 =>
    obtain ⟨h256, hhost, -, hturns, -⟩ := exec160_frame hi he
    exact ⟨congrArg State256.seq h256, hhost, hturns⟩

/-- A state of the last part of a run: the host has no more actions, no turns are given, and each pipeline has as many turns
left as `left` says. -/
structure State.Finishing (s : State) (left : Pipe → Nat) : Prop where
  inv : s.Inv
  program : s.host.program = []
  turns : s.turns = []
  turnsLeft : ∀ p, s.TurnsLeft p (left p)

/-- The count of free choices plays no part in it. -/
theorem State.Finishing.withDraws {s : State} {left : Pipe → Nat} (hs : s.Finishing left) (d : Nat) :
    State.Finishing { s with draws := d } left :=
  ⟨hs.inv.congr s.host.program s.turns d, hs.program, hs.turns, fun p => by cases p <;> exact hs.turnsLeft _⟩

theorem eq_or_eq_otherPipe (p q : Pipe) : q = p ∨ q = otherPipe p := by
  cases p <;> cases q <;> simp [otherPipe]

/-- A busy pipeline's turn completes and takes one off what is left. -/
theorem State.Finishing.pipeTurn {s : State} {left : Pipe → Nat} (hs : s.Finishing left) {p : Pipe}
    (hb : s.busy p = true) :
    0 < left p ∧ ∃ t, pipeTurn p s = .next t ∧ t.Finishing (Function.update left p (left p - 1)) := by
  obtain ⟨hinv, hprog, hturns, hleft⟩ := hs
  have hpos : 0 < left p := by
    refine Nat.pos_of_ne_zero fun h0 => ?_
    have hidle := (h0 ▸ hleft p).idle
    exact absurd (hb.symm.trans hidle) nofun
  obtain ⟨t, ht⟩ := pipeTurn_completes hinv hb
  obtain ⟨hother, hhost, hturns'⟩ := pipeTurn_frame ht
  refine ⟨hpos, t, ht, hinv.pipeTurn ht, by rw [hhost, hprog], by rw [hturns', hturns], fun q => ?_⟩
  by_cases hq : q = p
  · subst hq
    rw [Function.update_self]
    exact State.TurnsLeft.pipeTurn (by rw [Nat.sub_add_cancel hpos]; exact hleft q) ht
  · rw [Function.update_of_ne hq]
    obtain rfl := (eq_or_eq_otherPipe p q).resolve_left hq
    obtain ⟨i, hi, hseq, hidle⟩ := hleft (otherPipe p)
    exact ⟨i, hi, hother.trans hseq, hidle⟩

/-- With the host done, a free step that is not the end of the run is a busy pipeline's turn. -/
theorem State.Finishing.step {s : State} {left : Pipe → Nat} (hs : s.Finishing left) (h : ¬s.Over) :
    ∃ p, 0 < left p ∧ ∃ t, step s = .next t ∧ t.Finishing (Function.update left p (left p - 1)) := by
  obtain ⟨a, d, hstep, hready⟩ := freeTurnIsSomeReadyAgent.2 s hs.turns h
  rw [hstep]
  obtain ⟨rfl, hb⟩ | ⟨rfl, hb⟩ | ⟨-, hp⟩ := hready
  · exact ⟨.p256, (hs.withDraws d).pipeTurn (p := .p256) hb⟩
  · exact ⟨.p160, (hs.withDraws d).pipeTurn (p := .p160) hb⟩
  · exact absurd hs.program hp

/-- The run is over after no more steps than there are turns left. -/
theorem State.Finishing.run {n : Nat} {s : State} {left : Pipe → Nat} (hs : s.Finishing left)
    (hn : left .p256 + left .p160 = n) : ∃ k t, k ≤ n ∧ Host.Core.run core k s = .next t ∧ t.Over := by
  induction n generalizing s left with
  | zero =>
    have hidle : ∀ p, s.busy p = false := fun p => State.TurnsLeft.idle (by
      have h0 : left p = 0 := by cases p <;> omega
      exact h0 ▸ hs.turnsLeft p)
    exact ⟨0, s, le_rfl, rfl, hs.program, hidle .p256, hidle .p160⟩
  | succ n ih =>
    by_cases hover : s.Over
    · exact ⟨0, s, Nat.zero_le _, rfl, hover⟩
    · obtain ⟨p, hpos, u, hu, hfin⟩ := hs.step hover
      obtain ⟨k, t, hk, hrun, hover'⟩ := ih hfin (by cases p <;> simp [Function.update] <;> omega)
      exact ⟨k + 1, t, by omega, (run_next core k hu).trans hrun, hover'⟩

/-- Settles O54: every free step is a busy pipeline's turn, which completes, and each pipeline has at most as many turns left
as its sequence is long. -/
theorem busyPipelinesRunToCompletion : Obligations.BusyPipelinesRunToCompletion := by
  intro s hs hprog hturns
  have hfin : s.Finishing (fun p => (sequenceOf p).length) := ⟨hs, hprog, hturns, hs.turnsLeft⟩
  exact hfin.run (by simp only [sequenceOf, length_sequence256, length_sequence160])

end Sys2Proof.Machine
end

section
/-! Commands and register accesses given by the host (44_commands_and_sequencer.md R180 to R182, R187), and the statements O26,
O27, O29, O30, O32 and O35. -/

namespace Sys2Proof.Machine

open Sys2Proof

/-! ## Acceptance (R180) -/

/-- Settles O29: the word is 1 or 2, or the decoder rejects it as a reserved command. -/
theorem cmdWriteGivesTheNamedCommand : Obligations.CmdWriteGivesTheNamedCommand := by
  intro w s
  refine ⟨fun h => by rw [h]; rfl, fun h => by rw [h]; rfl, fun h1 h2 => ?_⟩
  have hdec : decodeC w = .error .reservedCommand := (if_neg h1).trans (if_neg h2)
  simp only [exec, execWr32Cmd, writeCmd, hdec, Refusal.ofReject]

/-- A command that meets every precondition is accepted (R180, R207). -/
theorem accept_completes {p : Pipe} {s : State} (hidle : s.busy p = false) (hw : s.pointersWritten p = true)
    (ha : s.sourcesAligned p = true) (hv : s.footprintValid p = true)
    (hr : s.busy (otherPipe p) = true → s.footprintsConflict = false) : accept p s = .next (s.started p) := by
  have hrace : (s.busy (otherPipe p) && s.footprintsConflict) = false := by
    rw [Bool.and_eq_false_imp]
    exact hr
  simp only [accept, hidle, hw, ha, hv, hrace, Bool.not_true, Bool.false_eq_true, if_false]

/-- BT256's preconditions, in the spec's words, are those of acceptance (R181). -/
theorem accept256_completes {s : State} (hidle : s.busy .p256 = false) (hready : s.Ready256)
    (hrace : s.busy .p160 = true → s.RaceFree) : accept .p256 s = .next (s.started .p256) := by
  obtain ⟨hsrc, hdst, halign, hvsrc, hvdst⟩ := hready
  exact accept_completes hidle (pointersWritten256_iff.2 ⟨hsrc, hdst⟩) (sourcesAligned256_iff.2 halign)
    (footprintValid256_iff.2 ⟨hvsrc, hvdst⟩) fun hb => footprintsConflict_iff.2 (hrace hb)

/-- BT160's preconditions, in the spec's words, are those of acceptance (R182). -/
theorem accept160_completes {s : State} (hidle : s.busy .p160 = false) (hready : s.Ready160)
    (hrace : s.busy .p256 = true → s.RaceFree) : accept .p160 s = .next (s.started .p160) := by
  obtain ⟨hsrc, hdst, halign, hvsrc, hvdst⟩ := hready
  exact accept_completes hidle (pointersWritten160_iff.2 ⟨hsrc, hdst⟩) (sourcesAligned160_iff.2 halign)
    (footprintValid160_iff.2 ⟨hvsrc, hvdst⟩) fun hb => footprintsConflict_iff.2 (hrace hb)

/-- Settles O26: acceptance completes, and the write of 1 to CMD is the command. -/
theorem bt256IsAccepted : Obligations.Bt256IsAccepted := by
  intro s hidle hready hrace
  have hacc : exec .bt256 s = .next (s.started .p256) := accept256_completes hidle hready hrace
  have hcmd := (cmdWriteGivesTheNamedCommand 1 s).1 rfl
  exact ⟨_, hacc, hcmd.trans hacc, rfl, by rw [statusWord_getLsbD]; rfl, rfl, fun _ => rfl⟩

/-- Settles O27: acceptance completes, and the write of 2 to CMD is the command. -/
theorem bt160IsAccepted : Obligations.Bt160IsAccepted := by
  intro s hidle hready hrace
  have hacc : exec .bt160 s = .next (s.started .p160) := accept160_completes hidle hready hrace
  have hcmd := (cmdWriteGivesTheNamedCommand 2 s).2.1 rfl
  exact ⟨_, hacc, hcmd.trans hacc, rfl, by rw [statusWord_getLsbD]; rfl, rfl, fun _ => rfl⟩

/-! ## Pointer registers (R187) -/

/-- A pointer write to an idle pipeline outside the host's quiescence window sets its register and leaves the bank's others
(R187). -/
theorem writePointer_completes {b : BankId} (i : BitVec 4) (v : BitVec 64) {s : State} (hidle : s.busy b.pipe = false)
    (hopen : s.awaiting b.pipe = false) :
    ∃ t, writePointer b i v s = .next t ∧ (t.bank b)[i.toFin] = ⟨v, true⟩ ∧
      (∀ k : Fin 16, k ≠ i.toFin → (t.bank b)[k] = (s.bank b)[k]) ∧ t = s.withBank b (t.bank b) ∧ s.SameMem t := by
  refine ⟨s.withBank b ((s.bank b).set i.toNat ⟨v, true⟩ i.isLt), ?_, ?_, fun k hk => ?_, ?_, fun a => ?_⟩
  · simp only [writePointer, hidle, hopen, Bool.false_eq_true, if_false]
  · simp
  · have hne : i.toNat ≠ k.val := fun h => hk (Fin.ext h.symm)
    simp [Vector.getElem_set_ne _ _ hne]
  · rw [State.bank_withBank]
  · rw [(withBank_frame s b _).1]

/-- Settles O30: `writePointer_completes` for each of the four banks. -/
theorem pointerWriteSetsOneRegister : Obligations.PointerWriteSetsOneRegister := fun i v _ =>
  ⟨fun hidle hopen =>
    ⟨writePointer_completes (b := .src256) i v hidle hopen, writePointer_completes (b := .dst256) i v hidle hopen⟩,
   fun hidle hopen =>
    ⟨writePointer_completes (b := .src160) i v hidle hopen, writePointer_completes (b := .dst160) i v hidle hopen⟩⟩

/-- A read of a pointer register that was written returns its value (R187). -/
theorem readPointer_of_written {b : BankId} {i : BitVec 4} {s : State} (h : ((s.bank b)[i.toFin]).written = true) :
    readPointer b i s = .next (s.withRdata ((s.bank b)[i.toFin]).value) := if_pos h

/-- A read of a pointer register that holds no value returns some value (R187, U12). -/
theorem readPointer_of_unwritten {b : BankId} {i : BitVec 4} {s : State} (h : ((s.bank b)[i.toFin]).written = false) :
    ∃ v, readPointer b i s = .next { s with host := { s.host with rdata := v, draws := s.host.draws + 1 } } :=
  ⟨_, if_neg (Bool.eq_false_iff.1 h)⟩

/-- Settles O32: the two cases of a pointer read, in each of the four banks. -/
theorem pointerReadReturnsTheRegister : Obligations.PointerReadReturnsTheRegister := by
  rintro i s x r (⟨rfl, rfl⟩ | ⟨rfl, rfl⟩ | ⟨rfl, rfl⟩ | ⟨rfl, rfl⟩)
  · exact ⟨readPointer_of_written (b := .src256), readPointer_of_unwritten (b := .src256)⟩
  · exact ⟨readPointer_of_written (b := .dst256), readPointer_of_unwritten (b := .dst256)⟩
  · exact ⟨readPointer_of_written (b := .src160), readPointer_of_unwritten (b := .src160)⟩
  · exact ⟨readPointer_of_written (b := .dst160), readPointer_of_unwritten (b := .dst160)⟩

/-- A pointer read after a pointer write of the same register returns what was written (R187). -/
theorem readPointer_after_writePointer {b : BankId} {i : BitVec 4} {v : BitVec 64} {s t u : State}
    (hw : writePointer b i v s = .next t) (hr : readPointer b i t = .next u) : u.host.rdata = v := by
  obtain ⟨-, -, rfl⟩ := writePointer_next hw
  have hreg : ((s.withBank b ((s.bank b).set i.toNat ⟨v, true⟩ i.isLt)).bank b)[i.toFin] = ⟨v, true⟩ := by simp
  rw [readPointer_of_written (by rw [hreg]), hreg] at hr
  cases hr
  rfl

/-- Settles O35: `readPointer_after_writePointer` in each of the four banks. -/
theorem pointerWriteThenRead : Obligations.PointerWriteThenRead := by
  rintro i v s t u wr rd (⟨rfl, rfl⟩ | ⟨rfl, rfl⟩ | ⟨rfl, rfl⟩ | ⟨rfl, rfl⟩)
  · exact readPointer_after_writePointer (b := .src256)
  · exact readPointer_after_writePointer (b := .dst256)
  · exact readPointer_after_writePointer (b := .src160)
  · exact readPointer_after_writePointer (b := .dst160)

end Sys2Proof.Machine
end

section
/-! The net effect of BT256 (44_commands_and_sequencer.md R181, R183; 41_engine256.md R129), and the statement O50. -/

namespace Sys2Proof.Machine

open Sys2Proof

/-- What turns of P256 that lead from `s` to `u` keep: memory's canonical form, the pointers, the other agents, the platform,
and every byte outside the digest buffers (R53, R206). -/
structure Keeps256 (s u : State) : Prop where
  mem_wf : Memory.wf u.mem
  platform : u.platform = s.platform
  src : u.p256.src = s.p256.src
  dst : u.p256.dst = s.p256.dst
  p160 : u.p160 = s.p160
  host : u.host = s.host
  read : ∀ a, ¬ s.Writes256 a → Memory.read u.mem a = Memory.read s.mem a

theorem Keeps256.refl {s : State} (hm : Memory.wf s.mem) : Keeps256 s s := ⟨hm, rfl, rfl, rfl, rfl, rfl, fun _ _ => rfl⟩

/-- The preconditions of a command still hold (R181). -/
theorem Keeps256.ready {s u : State} (h : Keeps256 s u) (hs : s.Ready256) : u.Ready256 := by
  simpa only [State.Ready256, State.LanesValid, h.src, h.dst, h.platform] using hs

theorem Keeps256.exec {s u v : State} (hk : Keeps256 s u) {i : Instr} (hi : Micro .p256 i) (h : exec i u = .next v) :
    Keeps256 s v := by
  obtain ⟨h160, hhost, hplat, -, -, hsrc, hdst⟩ := exec256_frame hi h
  refine ⟨exec_wf hi hk.mem_wf h, hplat.trans hk.platform, hsrc.trans hk.src, hdst.trans hk.dst, h160.trans hk.p160,
    hhost.trans hk.host, fun a ha => (exec256_read hi hk.mem_wf h ?_).trans (hk.read a ha)⟩
  rwa [State.Writes256, hk.dst]

/-- Turns of P256 from a state that meets BT256's preconditions complete, keep to P256's own, and do BT256's part for each
micro-operation that they perform. -/
theorem pipeTurns256_progress {B : Fin 16 → Block} {s : State} (hs : s.Ready256) (hm : Memory.wf s.mem)
    (hapart : s.p256.dst.Apart 32) {n : Nat} {i j : Instr} (hi : Micro .p256 i) (hj : nextMicro^[n] i = j)
    (hseq : s.p256.seq = seqCode i) (hp : Progress256 B i s) :
    ∃ t, pipeTurns .p256 n s = .next t ∧ t.p256.seq = seqCode j ∧ Keeps256 s t ∧ Progress256 B j t := by
  subst hj
  refine pipeTurns_induct (P := fun i u => Keeps256 s u ∧ Progress256 B i u) ?_ n hi hseq ⟨.refl hm, hp⟩
  rintro i u hi - ⟨hk, hp⟩
  obtain ⟨v, hv⟩ := exec256_completes hi (hk.ready hs)
  exact ⟨v, hv, hk.exec hi hv, hp.exec hi hk.mem_wf (by rwa [hk.dst]) hv⟩

/-- An accepted BT256 met its preconditions (R181). -/
theorem ready256_of_accept {s t : State} (h : accept .p256 s = .next t) : s.Ready256 := by
  obtain ⟨-, hw, ha, hv, -, -⟩ := accept_next h
  obtain ⟨hsrc, hdst⟩ := pointersWritten256_iff.1 hw
  obtain ⟨hvsrc, hvdst⟩ := footprintValid256_iff.1 hv
  exact ⟨hsrc, hdst, sourcesAligned256_iff.1 ha, hvsrc, hvdst⟩

/-- Settles O50: the 138 turns complete and come to IDLE, by when BT256 has written every byte of its digests. -/
theorem bt256NetEffect : Obligations.Bt256NetEffect := by
  intro s0 s hm hapart h
  have hready := ready256_of_accept h
  obtain ⟨-, -, -, -, -, rfl⟩ := accept_next h
  have hstart : Progress256 (s0.blockOf s0.p256.src) (.ldwBE 0) (s0.started .p256) :=
    ⟨rfl, fun _ k hk => absurd hk (Nat.not_lt_zero k)⟩
  obtain ⟨t, ht, hseq, hk, hdone⟩ :=
    pipeTurns256_progress (s := s0.started .p256) hready hm hapart (.ldwBE (by decide)) nextMicro_iterate_bt256
      rfl hstart
  refine ⟨t, ht, by simp [hseq, seqCode_idle], fun l n hn => ?_, hk.read, hk.src, hk.dst, hk.p160, hk.host⟩
  have hbyte := hdone l n hn
  rwa [hk.dst] at hbyte

end Sys2Proof.Machine
end

section
/-! `C160` of 42_engine160.md R152, round by round, and the same words in a lane of the engine's vectors. -/

namespace Sys2Proof.Machine

open Sys2Proof

/-! ## The rounds of a block -/

/-- Round `j` of line 1 on the words of a block (R148). -/
def line1Round (b : Block) (s : Hash160) (j : Nat) : Hash160 :=
  roundWord160 (fLine1 (j / 16)) (blockWord .little b (rl1 j)) (kl1 (j / 16)) (sl1 j) s

/-- Round `j` of line 2 on the words of a block (R149). -/
def line2Round (b : Block) (s : Hash160) (j : Nat) : Hash160 :=
  roundWord160 (fLine2 (j / 16)) (blockWord .little b (rl2 j)) (kl2 (j / 16)) (sl2 j) s

/-- A line's five words after its first `n` rounds (R152). -/
def lineAfter (round : Hash160 → Nat → Hash160) (n : Nat) : Hash160 := (List.range n).foldl round initWord160

theorem lineAfter_succ (round : Hash160 → Nat → Hash160) (n : Nat) :
    lineAfter round (n + 1) = round (lineAfter round n) n := by
  simp [lineAfter, List.range_succ]

theorem line1Words_eq (b : Block) : line1Words b = lineAfter (line1Round b) 80 := rfl

theorem line2Words_eq (b : Block) : line2Words b = lineAfter (line2Round b) 80 := rfl

/-- The words that a round selects are words of the block (R144). -/
theorem rl_lt {j : Nat} (h : j ≤ 79) : rl1 j < 16 ∧ rl2 j < 16 := by
  obtain ⟨h1, h2⟩ := roundTablesAreInRange.1 ⟨j / 16, by omega⟩
  have hj : 16 * (j / 16) + j % 16 = j := Nat.div_add_mod j 16
  have hmem : j % 16 ∈ List.range 16 := List.mem_range.2 (Nat.mod_lt _ (by decide))
  have hsel1 := h1.mem_iff.1 (List.mem_map.2 ⟨_, hmem, rfl⟩)
  have hsel2 := h2.mem_iff.1 (List.mem_map.2 ⟨_, hmem, rfl⟩)
  rw [hj, List.mem_range] at hsel1 hsel2
  exact ⟨hsel1, hsel2⟩

/-! ## One lane of the engine's vectors -/

/-- `INIT160` in one lane (R147). -/
theorem laneLine_init (l : Fin 16) : laneLine (Vector.ofFn fun k : Fin 5 => bcast (iv160 k)) l = initWord160 := by
  simp [laneLine, initWord160]

/-- `COMB160` in one lane (R150): word `k` of the digest, when the lane has done its rounds in both lines. -/
theorem combine160_lane {l1 l2 : Vector Vec 5} {l : Fin 16} {b : Block} (h1 : laneLine l1 l = line1Words b)
    (h2 : laneLine l2 l = line2Words b) {k : Nat} (hk : k < 5) :
    (nth (combine160 l1 l2) k)[l] = (c160 b).getD k 0#32 := by
  rw [nth_combine160_lane _ _ hk]
  simp only [c160, ← h1, ← h2]
  interval_cases k <;> rfl

end Sys2Proof.Machine
end

section
/-! The net effect of BT160 (44_commands_and_sequencer.md R182, R184; 42_engine160.md R146, R152), and the statement O51. -/

namespace Sys2Proof.Machine

open Sys2Proof

/-! ## What BT160 has done when it comes to a micro-operation -/

/-- The first `n` vectors `X` hold the words of the lanes' blocks. -/
def BlockWordsDone (B : Fin 16 → Block) (n : Nat) (x : Vector Vec 16) : Prop :=
  ∀ (l : Fin 16) (k : Nat), k < n → (nth x k)[l] = blockWord .little (B l) k

/-- A line's vectors hold what the lanes' blocks make in `n` of its rounds. -/
def LineDone (round : Block → Hash160 → Nat → Hash160) (B : Fin 16 → Block) (n : Nat) (v : Vector Vec 5) : Prop :=
  ∀ l : Fin 16, laneLine v l = lineAfter (round (B l)) n

/-- The vectors `H` hold the digests of the lanes' blocks. -/
def DigestsDone160 (B : Fin 16 → Block) (v : Vector Vec 5) : Prop :=
  ∀ (l : Fin 16) (k : Nat), k < 5 → (nth v k)[l] = (c160 (B l)).getD k 0#32

/-- The first `n` bytes of the digests of the lanes' blocks stand in the digest buffers. -/
def BytesDone160 (B : Fin 16 → Block) (n : Nat) (u : State) : Prop :=
  ∀ (l : Fin 16) (m : Nat), m < n → Memory.read u.mem (u.p160.dst.addr l + m) = digestByte .little (c160 (B l)) m

/-- What BT160 has done for the padded blocks `B` when it comes to this micro-operation of R184, none of it before the
padding; nothing is said before a micro-operation that is none of them. -/
def Progress160 (B : Fin 16 → Block) : Instr → State → Prop
  | .pad160, _ => False
  | .ldwLE j, u => u.blockOf u.p160.src = B ∧ BlockWordsDone B j.toNat u.p160.x
  | .init160, u => BlockWordsDone B 16 u.p160.x
  | .rnd160L1 j, u => BlockWordsDone B 16 u.p160.x ∧ LineDone line1Round B j.toNat u.p160.l1 ∧
      LineDone line2Round B 0 u.p160.l2
  | .rnd160L2 j, u => BlockWordsDone B 16 u.p160.x ∧ LineDone line1Round B 80 u.p160.l1 ∧
      LineDone line2Round B j.toNat u.p160.l2
  | .comb160, u => LineDone line1Round B 80 u.p160.l1 ∧ LineDone line2Round B 80 u.p160.l2
  | .stwLE k, u => DigestsDone160 B u.p160.h ∧ BytesDone160 B (4 * k.toNat) u
  | .idle, u => BytesDone160 B 20 u
  | _, _ => True

/-- `LDW.LE j` loads the blocks' word `j` (R111, R152). -/
theorem BlockWordsDone.load {B : Fin 16 → Block} {u : State} {j : Nat} (h : BlockWordsDone B j u.p160.x) (hj : j ≤ 15)
    (hB : u.blockOf u.p160.src = B) :
    BlockWordsDone B (j + 1) (setNth u.p160.x j (u.gather .little u.p160.src (4 * j))) := by
  intro l k hk
  by_cases hkj : k = j
  · rw [hkj, nth_setNth_self _ _ (by omega), gather_getElem _ _ _ (by omega), hB]
  · rw [nth_setNth_ne _ _ hkj, h l k (by omega)]

/-- One more round of a line, which in each lane is a round on the block's words. -/
theorem LineDone.next {round : Block → Hash160 → Nat → Hash160} {B : Fin 16 → Block} {n : Nat} {v : Vector Vec 5}
    (h : LineDone round B n v) {f : Word → Word → Word → Word} {x : Vec} {k : Word} {r : Nat}
    (hround : ∀ l s, round (B l) s n = roundWord160 f x[l] k r s) : LineDone round B (n + 1) (round160 f x k r v) := by
  intro l
  rw [laneLine_round, h l, lineAfter_succ, hround]

/-- `RND160.L1 j` performs round `j` of line 1 (R148, R152). -/
theorem LineDone.round1 {B : Fin 16 → Block} {x : Vector Vec 16} {v : Vector Vec 5} {j : Nat}
    (h : LineDone line1Round B j v) (hj : j ≤ 79) (hx : BlockWordsDone B 16 x) :
    LineDone line1Round B (j + 1) (round160 (fLine1 (j / 16)) (nth x (rl1 j)) (kl1 (j / 16)) (sl1 j) v) :=
  h.next fun l s => by rw [hx l _ (rl_lt hj).1, line1Round]

/-- `RND160.L2 j` performs round `j` of line 2 (R149, R152). -/
theorem LineDone.round2 {B : Fin 16 → Block} {x : Vector Vec 16} {v : Vector Vec 5} {j : Nat}
    (h : LineDone line2Round B j v) (hj : j ≤ 79) (hx : BlockWordsDone B 16 x) :
    LineDone line2Round B (j + 1) (round160 (fLine2 (j / 16)) (nth x (rl2 j)) (kl2 (j / 16)) (sl2 j) v) :=
  h.next fun l s => by rw [hx l _ (rl_lt hj).2, line2Round]

/-- Storing word `k` of each lane's digest into buffers that are disjoint writes bytes `4k` to `4k + 3` and leaves those
before (R172, R173). -/
theorem digestBytes_store {s : State} (hm : Memory.wf s.mem) (p : Pipe) (o : ByteOrder) {b : Bank} {size k : Nat}
    (hapart : b.Apart size) (hk : 4 * (k + 1) ≤ size) {W : Fin 16 → List Word} {v : Vec}
    (hv : ∀ l : Fin 16, v[l] = (W l).getD k 0#32)
    (h : ∀ l m, m < 4 * k → Memory.read s.mem (b.addr l + m) = digestByte o (W l) m) {l : Fin 16} {m : Nat}
    (hlt : m < 4 * (k + 1)) :
    Memory.read (s.scatter p (wordWrites o b (4 * k) v)).mem (b.addr l + m) = digestByte o (W l) m := by
  have hlane : ∀ i : Fin 16, b.addr i + 4 * k ≤ b.addr l + m → b.addr l + m < b.addr i + 4 * k + 4 → i = l := by
    intro i h1 h2
    by_contra hne
    obtain hlt | hlt := hapart i l hne <;> omega
  by_cases hold : m < 4 * k
  · rw [← h l m hold]
    refine read_scatter_laneWrites hm p (fun i => bytesOfWord_length _ _) ?_
    rintro ⟨i, h1, h2⟩
    obtain rfl := hlane i h1 h2
    omega
  · obtain ⟨i, n, hn, ha, hr⟩ := read_scatter_wordWrites hm p o (b := b) (off := 4 * k) (a := b.addr l + m) v
      ⟨l, by omega, by omega⟩
    obtain rfl := hlane i (by omega) (by omega)
    rw [hr, hv, digestByte, show m / 4 = k by omega, show m % 4 = n by omega]
    rfl

/-- A micro-operation of BT160 after the padding does its part (R184). -/
theorem Progress160.exec {B : Fin 16 → Block} {i : Instr} (hi : Micro .p160 i) {u v : State} (hp : Progress160 B i u)
    (hm : Memory.wf u.mem) (hapart : u.p160.dst.Apart 20) (h : exec i u = .next v) : Progress160 B (nextMicro i) v := by
  cases hi with
  | idle => cases h; exact hp
  | pad160 => exact hp.elim
  | @ldwLE j hj =>
    obtain ⟨-, -, rfl⟩ := execLdwLE_next h
    obtain ⟨hB, hx⟩ := hp
    have hx' := hx.load hj hB
    simp only [nextMicro]
    split
    · rw [← idx_succ (by omega)] at hx'
      exact ⟨hB, hx'⟩
    · rw [show j.toNat + 1 = 16 by omega] at hx'
      exact hx'
  | init160 =>
    cases h
    exact ⟨hp, laneLine_init, laneLine_init⟩
  | @rnd160L1 j hj =>
    obtain ⟨-, rfl⟩ := execRnd160L1_next h
    obtain ⟨hx, h1, h2⟩ := hp
    have h1' := h1.round1 hj hx
    simp only [nextMicro]
    split
    · rw [← idx_succ (by omega)] at h1'
      exact ⟨hx, h1', h2⟩
    · rw [show j.toNat + 1 = 80 by omega] at h1'
      exact ⟨hx, h1', h2⟩
  | @rnd160L2 j hj =>
    obtain ⟨-, rfl⟩ := execRnd160L2_next h
    obtain ⟨hx, h1, h2⟩ := hp
    have h2' := h2.round2 hj hx
    simp only [nextMicro]
    split
    · rw [← idx_succ (by omega)] at h2'
      exact ⟨hx, h1, h2'⟩
    · rw [show j.toNat + 1 = 80 by omega] at h2'
      exact ⟨h1, h2'⟩
  | comb160 =>
    cases h
    exact ⟨fun l k hk => combine160_lane (hp.1 l) (hp.2 l) hk, fun l m hm => absurd hm (Nat.not_lt_zero m)⟩
  | @stwLE k hk =>
    obtain ⟨-, -, rfl⟩ := execStwLE_next h
    obtain ⟨hd, hb⟩ := hp
    have hb' : BytesDone160 B (4 * (k.toNat + 1)) ((u.scatter .p160
        (wordWrites .little u.p160.dst (4 * k.toNat) (nth u.p160.h k.toNat))).advance .p160 (.stwLE k)) := by
      intro l m hlt
      rw [State.advance_mem]
      exact digestBytes_store hm .p160 .little hapart (by omega) (fun l => hd l k.toNat (by omega)) hb hlt
    simp only [nextMicro]
    split
    · rw [← idx_succ (by omega)] at hb'
      exact ⟨hd, hb'⟩
    · rw [show 4 * (k.toNat + 1) = 20 by omega] at hb'
      exact hb'

/-! ## The turns after the padding -/

/-- Past the padding BT160 writes no byte outside the digest buffers (R184, R53). -/
theorem exec160_read_of_ne_pad {i : Instr} (hi : Micro .p160 i) (hne : i ≠ .pad160) {s t : State} (hm : Memory.wf s.mem)
    (h : exec i s = .next t) {a : Nat} (ha : ¬ s.p160.dst.Covers 0 20 a) :
    Memory.read t.mem a = Memory.read s.mem a := by
  cases hi with
  | pad160 => exact absurd rfl hne
  | idle | init160 | comb160 => cases h; rfl
  | ldwLE => obtain ⟨-, -, rfl⟩ := execLdwLE_next h; rfl
  | rnd160L1 => obtain ⟨-, rfl⟩ := execRnd160L1_next h; rfl
  | rnd160L2 => obtain ⟨-, rfl⟩ := execRnd160L2_next h; rfl
  | stwLE =>
    obtain ⟨hk, -, rfl⟩ := execStwLE_next h
    rw [State.advance_mem]
    exact read_scatter_laneWrites hm .p160 (fun _ => bytesOfWord_length _ _)
      fun hc => ha (Covers.mono hc (by omega) (by omega))

/-- What turns of P160 past the padding that lead from `s` to `u` keep: memory's canonical form, the pointers, the other
agents, the platform, and every byte outside the digest buffers (R53, R206). -/
structure Keeps160 (s u : State) : Prop where
  mem_wf : Memory.wf u.mem
  platform : u.platform = s.platform
  src : u.p160.src = s.p160.src
  dst : u.p160.dst = s.p160.dst
  p256 : u.p256 = s.p256
  host : u.host = s.host
  read : ∀ a, ¬ s.p160.dst.Covers 0 20 a → Memory.read u.mem a = Memory.read s.mem a

theorem Keeps160.refl {s : State} (hm : Memory.wf s.mem) : Keeps160 s s := ⟨hm, rfl, rfl, rfl, rfl, rfl, fun _ _ => rfl⟩

theorem Keeps160.exec {s u v : State} (hk : Keeps160 s u) {i : Instr} (hi : Micro .p160 i) (hne : i ≠ .pad160)
    (h : exec i u = .next v) : Keeps160 s v := by
  obtain ⟨h256, hhost, hplat, -, -, hsrc, hdst⟩ := exec160_frame hi h
  refine ⟨exec_wf hi hk.mem_wf h, hplat.trans hk.platform, hsrc.trans hk.src, hdst.trans hk.dst, h256.trans hk.p256,
    hhost.trans hk.host, fun a ha => (exec160_read_of_ne_pad hi hne hk.mem_wf h ?_).trans (hk.read a ha)⟩
  rwa [hk.dst]

/-- BT160's preconditions speak of the pointers and the platform only (R182). -/
theorem ready160_congr {s u : State} (hplat : u.platform = s.platform) (hsrc : u.p160.src = s.p160.src)
    (hdst : u.p160.dst = s.p160.dst) (h : s.Ready160) : u.Ready160 := by
  simpa only [State.Ready160, State.LanesValid, hsrc, hdst, hplat] using h

/-- Turns of P160 past the padding, from a state that meets BT160's preconditions, complete, keep to P160's own, and do
BT160's part for each micro-operation that they perform. -/
theorem pipeTurns160_progress {B : Fin 16 → Block} {s : State} (hs : s.Ready160) (hm : Memory.wf s.mem)
    (hapart : s.p160.dst.Apart 20) {n : Nat} {i j : Instr} (hi : Micro .p160 i) (hj : nextMicro^[n] i = j)
    (hseq : s.p160.seq = seqCode i) (hp : Progress160 B i s) :
    ∃ t, pipeTurns .p160 n s = .next t ∧ t.p160.seq = seqCode j ∧ Keeps160 s t ∧ Progress160 B j t := by
  subst hj
  refine pipeTurns_induct (P := fun i u => Keeps160 s u ∧ Progress160 B i u) ?_ n hi hseq ⟨.refl hm, hp⟩
  rintro i u hi - ⟨hk, hp⟩
  obtain ⟨v, hv⟩ := exec160_completes hi (ready160_congr hk.platform hk.src hk.dst hs)
  have hne : i ≠ .pad160 := by
    rintro rfl
    exact hp
  exact ⟨v, hv, hk.exec hi hne hv, hp.exec hi hk.mem_wf (by rwa [hk.dst]) hv⟩

/-! ## The padding, and the whole command -/

/-- An accepted BT160 met its preconditions (R182). -/
theorem ready160_of_accept {s t : State} (h : accept .p160 s = .next t) : s.Ready160 := by
  obtain ⟨-, hw, ha, hv, -, -⟩ := accept_next h
  obtain ⟨hsrc, hdst⟩ := pointersWritten160_iff.1 hw
  obtain ⟨hvsrc, hvdst⟩ := footprintValid160_iff.1 hv
  exact ⟨hsrc, hdst, sourcesAligned160_iff.1 ha, hvsrc, hvdst⟩

/-- `PAD160` leaves PADTAIL at bytes 32 to 63 of every block, the padding ranges being disjoint or equal (R146). -/
theorem pad160_read {s u : State} (hm : Memory.wf s.mem) (hapart : s.p160.src.ApartOrEqual 32)
    (h : exec .pad160 s = .next u) (l : Fin 16) {n : Nat} (hlo : 32 ≤ n) (hhi : n < 64) :
    Memory.read u.mem (s.p160.src.addr l + n) = padTail.getD (n - 32) 0 := by
  obtain ⟨-, rfl⟩ := execPad160_next h
  obtain ⟨j, k, hk, haddr, hread⟩ := read_scatter_covered hm .p160 (b := s.p160.src) (off := 32) (n := 32)
    (a := s.p160.src.addr l + n) (bytes := fun _ => padTail) (fun _ => rfl) ⟨l, by omega, by omega⟩
  have hkn : k = n - 32 := by
    have hranges := hapart l j
    omega
  rw [State.advance_mem, hread, hkn]

/-- `PAD160` writes no byte outside the padding ranges (R146). -/
theorem pad160_read_outside {s u : State} (hm : Memory.wf s.mem) (h : exec .pad160 s = .next u) {a : Nat}
    (ha : ¬ s.p160.src.Covers 32 32 a) : Memory.read u.mem a = Memory.read s.mem a := by
  obtain ⟨-, rfl⟩ := execPad160_next h
  rw [State.advance_mem]
  exact read_scatter_laneWrites hm .p160 (fun _ => rfl) ha

/-- A block whose last 32 bytes are PADTAIL is the padded block of its first 32 (R152). -/
theorem blockOf_eq_paddedBlock {u : State} {b : Bank} {l : Fin 16}
    (h : ∀ n, 32 ≤ n → n < 64 → Memory.read u.mem (b.addr l + n) = padTail.getD (n - 32) 0) :
    u.blockOf b l = paddedBlock fun m => Memory.read u.mem (b.addr l + m) := by
  refine Vector.ext fun n hn => ?_
  simp only [State.blockOf, paddedBlock, Vector.getElem_ofFn]
  split
  · rfl
  next hge => exact h n (by omega) hn

/-- Settles O51: the first turn pads the blocks; the 183 after it complete and come to IDLE, by when BT160 has written every
byte of the digests of the padded blocks. -/
theorem bt160NetEffect : Obligations.Bt160NetEffect := by
  intro s0 s hm hpad hapart h
  have hready := ready160_of_accept h
  obtain ⟨-, -, -, -, -, rfl⟩ := accept_next h
  obtain ⟨u, hu⟩ := exec160_completes (s := s0.started .p160) .pad160 hready
  have hturn : pipeTurn .p160 (s0.started .p160) = .next u := (pipeTurn_at .pad160 rfl).trans hu
  obtain ⟨hp256, hhost, hplat, -, -, hsrc, hdst⟩ := exec160_frame .pad160 hu
  have hm : Memory.wf (s0.started .p160).mem := hm
  have htail := fun l n => pad160_read hm hpad hu l (n := n)
  have hblock : u.blockOf u.p160.src =
      fun l => paddedBlock fun m => Memory.read u.mem (s0.p160.src.addr l + m) := by
    rw [hsrc]
    exact funext fun l => blockOf_eq_paddedBlock (htail l)
  have hend : nextMicro^[183] (.ldwLE 0) = .idle :=
    (Function.iterate_succ_apply nextMicro 183 .pad160).symm.trans nextMicro_iterate_bt160
  obtain ⟨t, ht, hseq, hk, hdone⟩ := pipeTurns160_progress (s := u) (ready160_congr hplat hsrc hdst hready)
    (exec_wf .pad160 hm hu) (by rwa [hdst]) (.ldwLE (by decide)) hend (exec_seqOf .pad160 rfl hu)
    ⟨hblock, fun _ k hk => absurd hk (Nat.not_lt_zero k)⟩
  refine ⟨u, t, pipeTurns_succ hturn 0, (pipeTurns_succ hturn 183).trans ht, by simp [hseq, seqCode_idle],
    fun l n hn => ?_, htail, fun a => pad160_read_outside hm hu, fun a ha => hk.read a (by rwa [hdst]),
    hk.src.trans hsrc, hk.dst.trans hdst, hk.p256.trans hp256, hk.host.trans hhost⟩
  have hbyte := hdone l n hn
  rwa [hk.dst, hdst] at hbyte

end Sys2Proof.Machine
end

section
/-! Permuting the lanes of a pipeline (10_state.md R27, 44_commands_and_sequencer.md R189): what it does to vectors, pointers and
the lanes' writes. -/

namespace Sys2Proof.Machine

open Sys2Proof

variable (π : Equiv.Perm (Fin 16))

/-! ## Vectors -/

/-- The vector with its lanes permuted. -/
def permLanes (v : Vec) : Vec := Vector.ofFn fun i => v[π i]

@[simp] theorem permLanes_lane (v : Vec) (i : Nat) (h : i < 16) : (permLanes π v)[i] = v[π ⟨i, h⟩] := by
  simp [permLanes]

@[simp] theorem permLanes_bcast (c : Word) : permLanes π (bcast c) = bcast c := Vector.ext fun i hi => by simp

@[simp] theorem lift1_permLanes (f : Word → Word) (u : Vec) : lift1 f (permLanes π u) = permLanes π (lift1 f u) :=
  Vector.ext fun i hi => by simp

@[simp] theorem lift3_permLanes (f : Word → Word → Word → Word) (u v w : Vec) :
    lift3 f (permLanes π u) (permLanes π v) (permLanes π w) = permLanes π (lift3 f u v w) :=
  Vector.ext fun i hi => by simp

@[simp] theorem vadd_permLanes (u v : Vec) : vadd (permLanes π u) (permLanes π v) = permLanes π (vadd u v) :=
  Vector.ext fun i hi => by simp

/-- The same with a constant, which is in every lane. -/
@[simp] theorem vadd_permLanes_bcast (u : Vec) (c : Word) :
    vadd (permLanes π u) (bcast c) = permLanes π (vadd u (bcast c)) :=
  Vector.ext fun i hi => by simp

@[simp] theorem vadd_bcast_permLanes (u : Vec) (c : Word) :
    vadd (bcast c) (permLanes π u) = permLanes π (vadd (bcast c) u) :=
  Vector.ext fun i hi => by simp

/-- The file with the lanes of all its vectors permuted. -/
def permFile {n : Nat} (v : Vector Vec n) : Vector Vec n := v.map (permLanes π)

@[simp] theorem nth_permFile {n : Nat} (v : Vector Vec n) (t : Nat) : nth (permFile π v) t = permLanes π (nth v t) := by
  unfold nth permFile
  split
  · exact Vector.getElem_map ..
  · exact (permLanes_bcast π _).symm

theorem setNth_permFile {n : Nat} (v : Vector Vec n) (t : Nat) (x : Vec) :
    setNth (permFile π v) t (permLanes π x) = permFile π (setNth v t x) := by
  simp [permFile, setNth, Vector.map_setIfInBounds]

/-- The initial vectors are the same in every lane (R124, R147). -/
theorem permFile_constants {n : Nat} (c : Fin n → Word) :
    permFile π (Vector.ofFn fun k => bcast (c k)) = Vector.ofFn fun k => bcast (c k) :=
  Vector.ext fun k hk => by simp [permFile]

theorem expand256_permLanes (w2 w7 w15 w16 : Vec) :
    expand256 (permLanes π w2) (permLanes π w7) (permLanes π w15) (permLanes π w16) =
      permLanes π (expand256 w2 w7 w15 w16) := by
  simp [expand256]

theorem round256_permFile (k : Word) (w : Vec) (v : Vector Vec 8) :
    round256 k (permLanes π w) (permFile π v) = permFile π (round256 k w v) := by
  simp only [round256, nth_permFile, lift1_permLanes, lift3_permLanes, vadd_permLanes, vadd_permLanes_bcast]
  simp [permFile]

theorem final256_permFile (v : Vector Vec 8) : final256 (permFile π v) = permFile π (final256 v) :=
  Vector.ext fun k hk => by simp [final256, permFile]

theorem round160_permFile (f : Word → Word → Word → Word) (x : Vec) (k : Word) (r : Nat) (v : Vector Vec 5) :
    round160 f (permLanes π x) k r (permFile π v) = permFile π (round160 f x k r v) := by
  simp only [round160, nth_permFile, lift1_permLanes, lift3_permLanes, vadd_permLanes, vadd_permLanes_bcast]
  simp [permFile]

theorem combine160_permFile (l1 l2 : Vector Vec 5) :
    combine160 (permFile π l1) (permFile π l2) = permFile π (combine160 l1 l2) :=
  Vector.ext fun k hk => by
    simp only [combine160, nth_permFile, vadd_bcast_permLanes, vadd_permLanes]
    simp [permFile]

/-! ## Pointers, and the lanes' memory access -/

theorem addr_permuted (b : Bank) (i : Fin 16) : (b.permuted π).addr i = b.addr (π i) := by
  simp [Bank.addr, Bank.permuted]

/-- All lanes' ranges are valid in either order. -/
theorem lanesValid_permuted {s s' : State} (hplat : s'.platform = s.platform) {b : Bank} {off n : Nat}
    (h : s.LanesValid b off n) : s'.LanesValid (b.permuted π) off n := by
  intro i
  rw [addr_permuted, hplat]
  exact h (π i)

/-- Permuted lanes load permuted vectors (R112). -/
theorem gather_permuted {s s' : State} (hmem : s'.mem = s.mem) (o : ByteOrder) (b : Bank) (off : Nat) :
    s'.gather o (b.permuted π) off = permLanes π (s.gather o b off) :=
  Vector.ext fun i hi => by simp [addr_permuted, hmem]

/-- Lanes that write one address write the same byte there (R60). -/
def NoConflict (ws : List LaneWrite) : Prop := ∀ a u v, u ∈ competing ws a → v ∈ competing ws a → u = v

/-- Lanes whose ranges are disjoint, or equal with the same bytes, do not conflict (R60, R224). -/
theorem noConflict_laneWrites {b : Bank} {off n : Nat} {bytes : Fin 16 → List Byte} (hn : ∀ i, (bytes i).length = n)
    (h : ∀ i j, (b.addr i = b.addr j ∧ bytes i = bytes j) ∨ b.addr i + n ≤ b.addr j ∨ b.addr j + n ≤ b.addr i) :
    NoConflict (laneWrites b off bytes) := by
  intro a u v hu hv
  obtain ⟨w, hw, hle, hbyte⟩ := mem_competing.1 hu
  obtain ⟨w', hw', hle', hbyte'⟩ := mem_competing.1 hv
  obtain ⟨i, rfl⟩ := mem_laneWrites.1 hw
  obtain ⟨j, rfl⟩ := mem_laneWrites.1 hw'
  obtain ⟨hlt, -⟩ := List.getElem?_eq_some_iff.1 hbyte
  obtain ⟨hlt', -⟩ := List.getElem?_eq_some_iff.1 hbyte'
  rw [hn] at hlt hlt'
  obtain ⟨haddr, hsame⟩ | hapart := h i j
  · simp only [haddr, hsame] at hbyte hbyte'
    exact Option.some.inj (hbyte.symm.trans hbyte')
  · dsimp only at hlt hlt' hle hle'
    omega

/-- Where no writes conflict, what they leave in memory depends neither on their order nor on the picks (R60). -/
theorem storeLanes_congr {m : List Host.Cell} (hm : Memory.wf m) {ws ws' : List LaneWrite} (hws : ∀ w, w ∈ ws' ↔ w ∈ ws)
    (hend : ∀ w ∈ ws, w.1 + w.2.length ≤ 2 ^ 64) (hno : NoConflict ws) (pick pick' : Nat → Nat) :
    Memory.storeLanes pick' ws' m = Memory.storeLanes pick ws m := by
  refine Memory.ext (Memory.wf_storeLanes hm _ fun w hw => hend w ((hws w).1 hw)) (Memory.wf_storeLanes hm _ hend)
    fun a => ?_
  have hwritten : a ∈ writtenAddrs ws' ↔ a ∈ writtenAddrs ws := by simp only [mem_writtenAddrs, hws]
  have hcompeting : ∀ v, v ∈ competing ws' a → v ∈ competing ws a := fun v => by simp only [mem_competing, hws, imp_self]
  rw [Memory.read_storeLanes hm.1, Memory.read_storeLanes hm.1]
  simp only [hwritten]
  split
  next ha => exact hno a _ _ (hcompeting _ (settled_mem _ (hwritten.2 ha))) (settled_mem _ ha)
  · rfl

/-- Permuted lanes with permuted bytes make the same writes. -/
theorem mem_laneWrites_permuted {b : Bank} {off : Nat} {bytes bytes' : Fin 16 → List Byte}
    (hbytes : ∀ i, bytes' i = bytes (π i)) (w : LaneWrite) :
    w ∈ laneWrites (b.permuted π) off bytes' ↔ w ∈ laneWrites b off bytes := by
  simp only [mem_laneWrites, addr_permuted, hbytes]
  exact (π.surjective.exists (p := fun i => w = (b.addr i + off, bytes i))).symm

/-- The lanes' writes, none conflicting, leave the same memory when the lanes are permuted. -/
theorem storeLanes_permuted {s : State} (hm : Memory.wf s.mem) {b : Bank} {off n : Nat} {bytes bytes' : Fin 16 → List Byte}
    (hbytes : ∀ i, bytes' i = bytes (π i)) (hn : ∀ i, (bytes i).length = n) (hv : s.LanesValid b off n)
    (hno : NoConflict (laneWrites b off bytes)) (pick : Nat → Nat) :
    Memory.storeLanes pick (laneWrites (b.permuted π) off bytes') s.mem =
      Memory.storeLanes pick (laneWrites b off bytes) s.mem := by
  refine storeLanes_congr hm (mem_laneWrites_permuted π hbytes) (fun w hw => ?_) hno pick pick
  obtain ⟨i, rfl⟩ := mem_laneWrites.1 hw
  simpa only [hn] using (hv i).1

/-- The same for the words that a digest store writes (R172), the pointers being 4 or more apart (R60). -/
theorem storeLanes_wordWrites_permuted {s : State} (hm : Memory.wf s.mem) (o : ByteOrder) {b : Bank} {off : Nat} {v : Vec}
    (hv : s.LanesValid b off 4) (hapart : b.Apart 4) (pick : Nat → Nat) :
    Memory.storeLanes pick (wordWrites o (b.permuted π) off (permLanes π v)) s.mem =
      Memory.storeLanes pick (wordWrites o b off v) s.mem := by
  refine storeLanes_permuted π hm (fun i => by simp) (fun i => bytesOfWord_length o v[i]) hv
    (noConflict_laneWrites (fun i => bytesOfWord_length o v[i]) fun i j => ?_) pick
  by_cases hij : i = j
  · exact .inl ⟨by rw [hij], by rw [hij]⟩
  · exact .inr (hapart i j hij)

end Sys2Proof.Machine
end

section
/-! Runs of a command with its lanes permuted (44_commands_and_sequencer.md R189), and the statement O53. -/

namespace Sys2Proof.Machine

open Sys2Proof

variable (π : Equiv.Perm (Fin 16))

/-- The state with the pointers of P256's lanes permuted (R189). -/
def State.permutedPointers256 (s : State) : State :=
  { s with p256 := { s.p256 with src := s.p256.src.permuted π, dst := s.p256.dst.permuted π } }

/-- The state with P256's lanes permuted: its pointers and its working vectors. Irreducible, so that it is used through the
lemmas below and never unfolded to its banks' entries. -/
@[irreducible] def State.permuted256 (s : State) : State :=
  { s with p256 := { s.p256 with
    src := s.p256.src.permuted π, dst := s.p256.dst.permuted π, w := permFile π s.p256.w, s := permFile π s.p256.s } }

/-- The state with the pointers of P160's lanes permuted (R189). -/
def State.permutedPointers160 (s : State) : State :=
  { s with p160 := { s.p160 with src := s.p160.src.permuted π, dst := s.p160.dst.permuted π } }

/-- The state with P160's lanes permuted: its pointers and its working vectors. Irreducible, so that it is used through the
lemmas below and never unfolded to its banks' entries. -/
@[irreducible] def State.permuted160 (s : State) : State :=
  { s with p160 := { s.p160 with
    src := s.p160.src.permuted π, dst := s.p160.dst.permuted π, x := permFile π s.p160.x, l1 := permFile π s.p160.l1
    l2 := permFile π s.p160.l2, h := permFile π s.p160.h } }

/-! ## The state's updates -/

section
variable (s : State)

@[simp] theorem State.permuted256_mem : (s.permuted256 π).mem = s.mem := by rw [State.permuted256]
@[simp] theorem State.permuted256_platform : (s.permuted256 π).platform = s.platform := by rw [State.permuted256]
@[simp] theorem State.permuted256_src : (s.permuted256 π).p256.src = s.p256.src.permuted π := by rw [State.permuted256]
@[simp] theorem State.permuted256_dst : (s.permuted256 π).p256.dst = s.p256.dst.permuted π := by rw [State.permuted256]
@[simp] theorem State.permuted256_w : (s.permuted256 π).p256.w = permFile π s.p256.w := by rw [State.permuted256]
@[simp] theorem State.permuted256_s : (s.permuted256 π).p256.s = permFile π s.p256.s := by rw [State.permuted256]

@[simp] theorem State.permuted160_mem : (s.permuted160 π).mem = s.mem := by rw [State.permuted160]
@[simp] theorem State.permuted160_platform : (s.permuted160 π).platform = s.platform := by rw [State.permuted160]
@[simp] theorem State.permuted160_src : (s.permuted160 π).p160.src = s.p160.src.permuted π := by rw [State.permuted160]
@[simp] theorem State.permuted160_dst : (s.permuted160 π).p160.dst = s.p160.dst.permuted π := by rw [State.permuted160]
@[simp] theorem State.permuted160_x : (s.permuted160 π).p160.x = permFile π s.p160.x := by rw [State.permuted160]
@[simp] theorem State.permuted160_l1 : (s.permuted160 π).p160.l1 = permFile π s.p160.l1 := by rw [State.permuted160]
@[simp] theorem State.permuted160_l2 : (s.permuted160 π).p160.l2 = permFile π s.p160.l2 := by rw [State.permuted160]
@[simp] theorem State.permuted160_h : (s.permuted160 π).p160.h = permFile π s.p160.h := by rw [State.permuted160]

theorem State.permuted256_advance (i : Instr) :
    (s.permuted256 π).advance .p256 i = (s.advance .p256 i).permuted256 π := by
  simp only [State.permuted256]
  rfl

theorem State.permuted256_withW (t : Nat) (v : Vec) :
    (s.permuted256 π).withW t (permLanes π v) = (s.withW t v).permuted256 π := by
  simp only [State.withW, State.permuted256, setNth_permFile]

theorem State.permuted256_withS (v : Vector Vec 8) :
    (s.permuted256 π).withS (permFile π v) = (s.withS v).permuted256 π := by
  simp only [State.permuted256]
  rfl

theorem State.permuted160_advance (i : Instr) :
    (s.permuted160 π).advance .p160 i = (s.advance .p160 i).permuted160 π := by
  simp only [State.permuted160]
  rfl

theorem State.permuted160_withX (j : Nat) (v : Vec) :
    (s.permuted160 π).withX j (permLanes π v) = (s.withX j v).permuted160 π := by
  simp only [State.withX, State.permuted160, setNth_permFile]

theorem State.permuted160_withL1 (v : Vector Vec 5) :
    (s.permuted160 π).withL1 (permFile π v) = (s.withL1 v).permuted160 π := by
  simp only [State.permuted160]
  rfl

theorem State.permuted160_withL2 (v : Vector Vec 5) :
    (s.permuted160 π).withL2 (permFile π v) = (s.withL2 v).permuted160 π := by
  simp only [State.permuted160]
  rfl

theorem State.permuted160_withH (v : Vector Vec 5) :
    (s.permuted160 π).withH (permFile π v) = (s.withH v).permuted160 π := by
  simp only [State.permuted160]
  rfl

theorem State.permutedPointers256_seq : (s.permutedPointers256 π).p256.seq = s.p256.seq := by
  rw [State.permutedPointers256]

theorem State.permutedPointers160_seq : (s.permutedPointers160 π).p160.seq = s.p160.seq := by
  rw [State.permutedPointers160]

/-- With permuted pointers alone, the state differs from one with permuted lanes in the working vectors. -/
theorem State.permutedPointers256_eq :
    s.permutedPointers256 π = (s.permuted256 π).withVectors256 s.p256.w s.p256.s := by
  simp only [State.permuted256, State.permutedPointers256, State.withVectors256]

theorem State.permutedPointers160_eq :
    s.permutedPointers160 π = (s.permuted160 π).withVectors160 s.p160.x s.p160.l1 s.p160.l2 s.p160.h := by
  simp only [State.permuted160, State.permutedPointers160, State.withVectors160]

end

/-- P256's lanes' writes that leave the same memory, made by permuted lanes. -/
theorem State.permuted256_scatter {s : State} {ws ws' : List LaneWrite}
    (h : ∀ pick, Memory.storeLanes pick ws' s.mem = Memory.storeLanes pick ws s.mem) :
    (s.permuted256 π).scatter .p256 ws' = (s.scatter .p256 ws).permuted256 π := by
  simp only [State.scatter, State.permuted256, h]

/-- P160's lanes' writes that leave the same memory, made by permuted lanes. -/
theorem State.permuted160_scatter {s : State} {ws ws' : List LaneWrite}
    (h : ∀ pick, Memory.storeLanes pick ws' s.mem = Memory.storeLanes pick ws s.mem) :
    (s.permuted160 π).scatter .p160 ws' = (s.scatter .p160 ws).permuted160 π := by
  simp only [State.scatter, State.permuted160, h]

/-! ## The micro-operations -/

/-- A micro-operation of P256 that completes does so with permuted lanes. -/
theorem exec256_permuted_completes {i : Instr} (hi : Micro .p256 i) {s t : State} (h : exec i s = .next t) :
    ∃ t', exec i (s.permuted256 π) = .next t' := by
  cases hi with
  | idle | init256 | fin256 => exact ⟨_, rfl⟩
  | ldwBE hj =>
    obtain ⟨-, hv, -⟩ := execLdwBE_next h
    exact ldwBE_completes hj (by simpa using lanesValid_permuted π (s.permuted256_platform π) hv)
  | exp256 hlo hhi => exact ⟨_, indexCheck_passes ⟨hlo, hhi⟩ _⟩
  | rnd256 hk => exact ⟨_, indexCheck_passes hk _⟩
  | stwBE hk =>
    obtain ⟨-, hv, -⟩ := execStwBE_next h
    exact stwBE_completes hk (by simpa using lanesValid_permuted π (s.permuted256_platform π) hv)

/-- A micro-operation of P256 does the same with permuted lanes, where no writes conflict. -/
theorem exec256_permuted {i : Instr} (hi : Micro .p256 i) {s t : State} (hm : Memory.wf s.mem)
    (hapart : s.p256.dst.Apart 4) (h : exec i s = .next t) : exec i (s.permuted256 π) = .next (t.permuted256 π) := by
  obtain ⟨t', h'⟩ := exec256_permuted_completes π hi h
  suffices he : t' = t.permuted256 π by rw [h', he]
  cases hi with
  | idle => cases h; cases h'; rfl
  | init256 =>
    cases h; cases h'
    rw [← State.permuted256_advance, ← State.permuted256_withS, permFile_constants]
  | fin256 =>
    cases h; cases h'
    rw [State.permuted256_s, final256_permFile, State.permuted256_withS, State.permuted256_advance]
  | ldwBE =>
    obtain ⟨-, -, rfl⟩ := execLdwBE_next h
    obtain ⟨-, -, rfl⟩ := execLdwBE_next h'
    rw [State.permuted256_src, gather_permuted π (s.permuted256_mem π), State.permuted256_withW,
      State.permuted256_advance]
  | exp256 =>
    obtain ⟨-, -, rfl⟩ := execExp256_next h
    obtain ⟨-, -, rfl⟩ := execExp256_next h'
    simp only [State.permuted256_w, nth_permFile]
    rw [expand256_permLanes, State.permuted256_withW, State.permuted256_advance]
  | rnd256 =>
    obtain ⟨-, rfl⟩ := execRnd256_next h
    obtain ⟨-, rfl⟩ := execRnd256_next h'
    rw [State.permuted256_w, State.permuted256_s, nth_permFile, round256_permFile, State.permuted256_withS,
      State.permuted256_advance]
  | stwBE =>
    obtain ⟨-, hv, rfl⟩ := execStwBE_next h
    obtain ⟨-, -, rfl⟩ := execStwBE_next h'
    rw [State.permuted256_dst, State.permuted256_s, nth_permFile,
      State.permuted256_scatter π (storeLanes_wordWrites_permuted π hm .big hv hapart), State.permuted256_advance]

/-- A micro-operation of P160 that completes does so with permuted lanes. -/
theorem exec160_permuted_completes {i : Instr} (hi : Micro .p160 i) {s t : State} (h : exec i s = .next t) :
    ∃ t', exec i (s.permuted160 π) = .next t' := by
  cases hi with
  | idle | init160 | comb160 => exact ⟨_, rfl⟩
  | pad160 =>
    obtain ⟨hv, -⟩ := execPad160_next h
    exact pad160_completes (by simpa using lanesValid_permuted π (s.permuted160_platform π) hv)
  | ldwLE hj =>
    obtain ⟨-, hv, -⟩ := execLdwLE_next h
    exact ldwLE_completes hj (by simpa using lanesValid_permuted π (s.permuted160_platform π) hv)
  | rnd160L1 hj => exact ⟨_, indexCheck_passes hj _⟩
  | rnd160L2 hj => exact ⟨_, indexCheck_passes hj _⟩
  | stwLE hk =>
    obtain ⟨-, hv, -⟩ := execStwLE_next h
    exact stwLE_completes hk (by simpa using lanesValid_permuted π (s.permuted160_platform π) hv)

/-- A micro-operation of P160 does the same with permuted lanes, where no writes conflict. -/
theorem exec160_permuted {i : Instr} (hi : Micro .p160 i) {s t : State} (hm : Memory.wf s.mem)
    (hpad : s.p160.src.ApartOrEqual 32) (hapart : s.p160.dst.Apart 4) (h : exec i s = .next t) :
    exec i (s.permuted160 π) = .next (t.permuted160 π) := by
  obtain ⟨t', h'⟩ := exec160_permuted_completes π hi h
  suffices he : t' = t.permuted160 π by rw [h', he]
  cases hi with
  | idle => cases h; cases h'; rfl
  | pad160 =>
    obtain ⟨hv, rfl⟩ := execPad160_next h
    obtain ⟨-, rfl⟩ := execPad160_next h'
    have hno : NoConflict (laneWrites s.p160.src 32 fun _ => padTail) :=
      noConflict_laneWrites (n := 32) (fun _ => rfl) fun i j => (hpad i j).imp_left fun he => ⟨he, rfl⟩
    have hstore := storeLanes_permuted π hm (bytes' := fun _ => padTail) (fun _ => rfl) (fun _ => rfl) hv hno
    rw [State.permuted160_src, State.permuted160_scatter π hstore, State.permuted160_advance]
  | ldwLE =>
    obtain ⟨-, -, rfl⟩ := execLdwLE_next h
    obtain ⟨-, -, rfl⟩ := execLdwLE_next h'
    rw [State.permuted160_src, gather_permuted π (s.permuted160_mem π), State.permuted160_withX,
      State.permuted160_advance]
  | init160 =>
    cases h; cases h'
    rw [← State.permuted160_advance, ← State.permuted160_withL2, ← State.permuted160_withL1, permFile_constants]
  | rnd160L1 =>
    obtain ⟨-, rfl⟩ := execRnd160L1_next h
    obtain ⟨-, rfl⟩ := execRnd160L1_next h'
    rw [State.permuted160_x, State.permuted160_l1, nth_permFile, round160_permFile, State.permuted160_withL1,
      State.permuted160_advance]
  | rnd160L2 =>
    obtain ⟨-, rfl⟩ := execRnd160L2_next h
    obtain ⟨-, rfl⟩ := execRnd160L2_next h'
    rw [State.permuted160_x, State.permuted160_l2, nth_permFile, round160_permFile, State.permuted160_withL2,
      State.permuted160_advance]
  | comb160 =>
    cases h; cases h'
    rw [State.permuted160_l1, State.permuted160_l2, combine160_permFile, State.permuted160_withH,
      State.permuted160_advance]
  | stwLE =>
    obtain ⟨-, hv, rfl⟩ := execStwLE_next h
    obtain ⟨-, -, rfl⟩ := execStwLE_next h'
    rw [State.permuted160_dst, State.permuted160_h, nth_permFile,
      State.permuted160_scatter π (storeLanes_wordWrites_permuted π hm .little hv hapart), State.permuted160_advance]

/-! ## The whole command -/

/-- Two states before the micro-operation `i` of BT256, the second with the first's lanes permuted but for working vectors that
the command has not set by then; no writes of the first's lanes conflict. -/
def Permuted256 (i : Instr) (s s' : State) : Prop :=
  Memory.wf s.mem ∧ s.p256.dst.Apart 4 ∧ Agree256 i (s.permuted256 π) s'

theorem Permuted256.exec {i : Instr} {s s' t t' : State} (hi : Micro .p256 i) (hp : Permuted256 π i s s')
    (h : exec i s = .next t) (h' : exec i s' = .next t') : Permuted256 π (nextMicro i) t t' := by
  obtain ⟨hm, hapart, ha⟩ := hp
  obtain ⟨-, -, -, -, -, -, hdst⟩ := exec256_frame hi h
  exact ⟨exec_wf hi hm h, by rwa [hdst], ha.exec hi (exec256_permuted π hi hm hapart h) h'⟩

/-- BT256 ends with the same memory when its lanes' pointers are permuted (R189). -/
theorem pipeTurns256_permuted {s t t' : State} (hm : Memory.wf s.mem) (hs : s.p256.seq = position 0x1 0)
    (hapart : s.p256.dst.Apart 4) (h : pipeTurns .p256 138 s = .next t)
    (h' : pipeTurns .p256 138 (s.permutedPointers256 π) = .next t') : t.mem = t'.mem := by
  have h0 : Permuted256 π (.ldwBE 0) s (s.permutedPointers256 π) :=
    ⟨hm, hapart, s.p256.w, s.p256.s, s.permutedPointers256_eq π, fun k hk => absurd hk (Nat.not_lt_zero k), nofun⟩
  have hend := pipeTurns_lockstep (R := Permuted256 π) (fun _ _ _ _ _ hi hp => hp.exec π hi) 138 (.ldwBE (by decide))
    (s' := s.permutedPointers256 π) hs ((s.permutedPointers256_seq π).trans hs) h0 h h'
  rw [nextMicro_iterate_bt256] at hend
  obtain ⟨-, -, ha⟩ := hend
  rw [← ha.eq rfl rfl, State.permuted256_mem]

/-- Two states before the micro-operation `i` of BT160, the second with the first's lanes permuted but for working vectors that
the command has not set by then; no writes of the first's lanes conflict. -/
def Permuted160 (i : Instr) (s s' : State) : Prop :=
  Memory.wf s.mem ∧ s.p160.src.ApartOrEqual 32 ∧ s.p160.dst.Apart 4 ∧ Agree160 i (s.permuted160 π) s'

theorem Permuted160.exec {i : Instr} {s s' t t' : State} (hi : Micro .p160 i) (hp : Permuted160 π i s s')
    (h : exec i s = .next t) (h' : exec i s' = .next t') : Permuted160 π (nextMicro i) t t' := by
  obtain ⟨hm, hpad, hapart, ha⟩ := hp
  obtain ⟨-, -, -, -, -, hsrc, hdst⟩ := exec160_frame hi h
  exact ⟨exec_wf hi hm h, by rwa [hsrc], by rwa [hdst], ha.exec hi (exec160_permuted π hi hm hpad hapart h) h'⟩

/-- BT160 ends with the same memory when its lanes' pointers are permuted (R189). -/
theorem pipeTurns160_permuted {s t t' : State} (hm : Memory.wf s.mem) (hs : s.p160.seq = position 0x8 0)
    (hpad : s.p160.src.ApartOrEqual 32) (hapart : s.p160.dst.Apart 4) (h : pipeTurns .p160 184 s = .next t)
    (h' : pipeTurns .p160 184 (s.permutedPointers160 π) = .next t') : t.mem = t'.mem := by
  have h0 : Permuted160 π .pad160 s (s.permutedPointers160 π) :=
    ⟨hm, hpad, hapart, s.p160.x, s.p160.l1, s.p160.l2, s.p160.h, s.permutedPointers160_eq π,
      fun k hk => absurd hk (Nat.not_lt_zero k), nofun, nofun⟩
  have hend := pipeTurns_lockstep (R := Permuted160 π) (fun _ _ _ _ _ hi hp => hp.exec π hi) 184 .pad160
    (s' := s.permutedPointers160 π) hs ((s.permutedPointers160_seq π).trans hs) h0 h h'
  rw [nextMicro_iterate_bt160] at hend
  obtain ⟨-, -, -, ha⟩ := hend
  rw [← ha.eq rfl rfl rfl, State.permuted160_mem]

/-- Settles O53: micro-operation by micro-operation the second run does what the first does with its lanes permuted, and the
lanes' writes, none conflicting, leave the same bytes in either order. -/
theorem laneOrderDoesNotMatter : Obligations.LaneOrderDoesNotMatter :=
  ⟨fun π _ _ _ hm hs hapart h h' => pipeTurns256_permuted π hm hs hapart h h',
    fun π _ _ _ hm hs hpad hapart h h' => pipeTurns160_permuted π hm hs hpad hapart h h'⟩

end Sys2Proof.Machine
end

section
/-! Where a command's acceptance stops (60_exceptions.md R207, 44_commands_and_sequencer.md R180), and the statement O28. -/

namespace Sys2Proof.Machine

open Sys2Proof

/-! ## One broken precondition at a time, in the order of acceptance's checks (log entry 5) -/

section
variable {p : Pipe} {s : State}

theorem accept_of_busy (hbusy : s.busy p = true) : accept p s = .refused .commandWhileBusy := if_pos hbusy

theorem accept_of_unwritten (hidle : s.busy p = false) (hw : ¬s.pointersWritten p = true) :
    accept p s = .fault (.unwrittenPointer p) := by
  simp [accept, hidle, hw]

theorem accept_of_misaligned (hidle : s.busy p = false) (hw : s.pointersWritten p = true)
    (ha : ¬s.sourcesAligned p = true) : accept p s = .refused .srcMisaligned := by
  simp [accept, hidle, hw, ha]

theorem accept_of_invalid (hidle : s.busy p = false) (hw : s.pointersWritten p = true)
    (ha : s.sourcesAligned p = true) (hv : ¬s.footprintValid p = true) : accept p s = .refused .badPointer := by
  simp [accept, hidle, hw, ha, hv]

theorem accept_of_race (hidle : s.busy p = false) (hw : s.pointersWritten p = true) (ha : s.sourcesAligned p = true)
    (hv : s.footprintValid p = true) (hother : s.busy (otherPipe p) = true) (hc : s.footprintsConflict = true) :
    accept p s = .refused .pipelineRace := by
  simp [accept, hidle, hw, ha, hv, hother, hc]

end

/-! ## The preconditions in the spec's words -/

/-- Two commands that are not race-free have conflicting footprints (R62). -/
theorem footprintsConflict_of_not_raceFree {s : State} (h : ¬s.RaceFree) : s.footprintsConflict = true :=
  eq_true_of_ne_false (mt footprintsConflict_iff.1 h)

/-- Acceptance stops at the first broken precondition, for a pipeline with the pointers `src` and `dst` and digests of `n`
bytes. -/
theorem accept_stops {p : Pipe} {s : State} {src dst : Bank} {n : Nat}
    (written_iff : s.pointersWritten p = true ↔ src.Written ∧ dst.Written)
    (aligned_iff : s.sourcesAligned p = true ↔ src.Aligned)
    (valid_iff : s.footprintValid p = true ↔ s.LanesValid src 0 64 ∧ s.LanesValid dst 0 n) :
    (s.busy p = true → accept p s = .refused .commandWhileBusy) ∧
    (s.busy p = false → ¬(src.Written ∧ dst.Written) → accept p s = .fault (.unwrittenPointer p)) ∧
    (s.busy p = false → src.Written → dst.Written → ¬src.Aligned → accept p s = .refused .srcMisaligned) ∧
    (s.busy p = false → src.Written → dst.Written → src.Aligned →
      ¬(s.LanesValid src 0 64 ∧ s.LanesValid dst 0 n) → accept p s = .refused .badPointer) ∧
    (s.busy p = false →
      src.Written ∧ dst.Written ∧ src.Aligned ∧ s.LanesValid src 0 64 ∧ s.LanesValid dst 0 n →
      s.busy (otherPipe p) = true → ¬s.RaceFree → accept p s = .refused .pipelineRace) := by
  refine ⟨accept_of_busy, fun hidle hw => ?_, fun hidle hsrc hdst ha => ?_, fun hidle hsrc hdst ha hv => ?_,
    fun hidle ⟨hsrc, hdst, ha, hv⟩ hother hr => ?_⟩
  · exact accept_of_unwritten hidle (mt written_iff.1 hw)
  · exact accept_of_misaligned hidle (written_iff.2 ⟨hsrc, hdst⟩) (mt aligned_iff.1 ha)
  · exact accept_of_invalid hidle (written_iff.2 ⟨hsrc, hdst⟩) (aligned_iff.2 ha) (mt valid_iff.1 hv)
  · exact accept_of_race hidle (written_iff.2 ⟨hsrc, hdst⟩) (aligned_iff.2 ha) (valid_iff.2 hv) hother
      (footprintsConflict_of_not_raceFree hr)

/-- Settles O28: `accept_stops` for each pipeline, with its own pointers and its own size of a digest. -/
theorem commandStops : Obligations.CommandStops :=
  ⟨fun _ => accept_stops pointersWritten256_iff sourcesAligned256_iff footprintValid256_iff,
    fun _ => accept_stops pointersWritten160_iff sourcesAligned160_iff footprintValid160_iff⟩

end Sys2Proof.Machine
end

section
/-! Where a pointer write stops (60_exceptions.md R207, R223; 20_memory.md R57), a reset in any state
(70_reset_and_hazards.md R220), and the statements O31 and O41. -/

namespace Sys2Proof.Machine

open Sys2Proof

/-! ## Pointer writes that are refused -/

/-- A pointer write to a busy pipeline stops (R223). -/
theorem writePointer_of_busy {b : BankId} (i : BitVec 4) (v : BitVec 64) {s : State} (hbusy : s.busy b.pipe = true) :
    writePointer b i v s = .refused .regWriteWhileBusy := if_pos hbusy

/-- A pointer write to an idle pipeline whose quiescence window is open stops (R57 item 3, log entry 11). -/
theorem writePointer_of_awaiting {b : BankId} (i : BitVec 4) (v : BitVec 64) {s : State}
    (hidle : s.busy b.pipe = false) (hopen : s.awaiting b.pipe = true) :
    writePointer b i v s = .refused .hostRace := by
  simp [writePointer, hidle, hopen]

/-- Settles O31: `writePointer_of_busy` and `writePointer_of_awaiting` for the two banks of each pipeline. -/
theorem pointerWriteStops : Obligations.PointerWriteStops := fun i v _ =>
  ⟨fun hbusy => ⟨writePointer_of_busy (b := .src256) i v hbusy, writePointer_of_busy (b := .dst256) i v hbusy⟩,
   fun hbusy => ⟨writePointer_of_busy (b := .src160) i v hbusy, writePointer_of_busy (b := .dst160) i v hbusy⟩,
   fun hidle hopen =>
    ⟨writePointer_of_awaiting (b := .src256) i v hidle hopen, writePointer_of_awaiting (b := .dst256) i v hidle hopen⟩,
   fun hidle hopen =>
    ⟨writePointer_of_awaiting (b := .src160) i v hidle hopen, writePointer_of_awaiting (b := .dst160) i v hidle hopen⟩⟩

/-! ## Reset (R220) -/

/-- After a reset in any state both pipelines are idle (R220). -/
theorem resetCore_busy (s : State) (p : Pipe) : (resetCore s).busy p = false := by
  cases p <;> rfl

/-- After a reset in any state both busy bits of STATUS are 0 (R32). -/
theorem resetCore_statusWord (s : State) : (resetCore s).statusWord = 0 := by
  rw [State.statusWord, resetCore_busy, resetCore_busy]
  rfl

/-- A reset in any state leaves the pointer registers of the state after reset (R32). -/
theorem resetCore_bank (s : State) (b : BankId) : (resetCore s).bank b = State.reset.bank b := by
  cases b <;> rfl

/-- After a reset in any state no pointer register holds a value (R32). -/
theorem bank_resetCore_written (s : State) (b : BankId) (i : Fin 16) :
    (((resetCore s).bank b)[i]).written = false := by
  rw [resetCore_bank, bank_reset_written]

/-- Settles O41: `memAfterReset_idle` and `read_memAfterReset` say what memory holds, with the write footprints in the spec's
words. -/
theorem resetAbandonsTheCommands : Obligations.ResetAbandonsTheCommands := by
  intro s
  refine ⟨resetCore s, rfl, rfl, rfl, resetCore_statusWord s, bank_resetCore_written s, memAfterReset_idle,
    fun hm a h256 h160 => ?_, rfl⟩
  exact read_memAfterReset hm (fun hb => mt writes256_iff.1 (h256 hb)) (fun hb => mt writes160_iff.1 (h160 hb))

end Sys2Proof.Machine
end
